-- ==== Sys2Proof/Word.lean ====
section
/-! DEFINITION. The value types of the block: bytes, 32-bit register words, 16-bit window offsets and the 64-bit
operands (00_scope.md R7, R8, R9). Every value is unsigned. -/

namespace Sys2Proof

/-- A byte of a buffer or of a character string (R8). -/
abbrev Byte := BitVec 8

/-- A 32-bit register or command word; bit 0 is the least significant bit (R7). -/
abbrev Word := BitVec 32

/-- A byte offset of the 16-bit register window (20_memory.md R30). -/
abbrev Offset := BitVec 16

/-- A 64-bit operand, TIME or COUNTER (10_state.md R22, R23). -/
abbrev Wide := BitVec 64

end Sys2Proof
end

