-- ==== Sys2Proof/Config.lean ====
section
/-! DEFINITION. What an implementation of the block fixes (00_scope.md R6), and the free values: the values the spec
leaves open and a model draws (93_implementation_defined.md U7, U8, U9). -/

namespace Sys2Proof

/-- The size parameter of one implementation. KEY_MAX equals SECRET_MAX (R6, D6), so one number fixes both.
It stands in State and no step changes it, so that a claim about every state is a claim about every capacity. -/
structure Config where
  /-- SECRET_MAX: the capacity of the SECRET buffer in bytes. -/
  secretMax : Nat
  deriving DecidableEq, Repr

/-- KEY_MAX = SECRET_MAX (R6, D6). -/
def Config.keyMax (c : Config) : Nat := c.secretMax

/-- The reference value of R6: SECRET_MAX = KEY_MAX = 256. -/
def Config.reference : Config := { secretMax := 256 }

/-- FREE VALUE (U8, U9): the byte that offset `offset` of SECRET or KEY holds after the reset numbered `draw`, until
something writes it. Nothing constrains it. -/
opaque Config.freeRamByte (draw offset : Nat) : Byte

/-- FREE VALUE (U7): the value the draw-th unspecified host read returns, a read while BUSY = 1 of an offset that is
neither STATUS nor CAPS (70_reset_and_hazards.md R94). Nothing constrains it. -/
opaque Config.freeRead (draw : Nat) : Word

end Sys2Proof
end

