-- ==== Sys2Proof/Syntax.lean ====
section
/-! DEFINITION. The commands of spec/opcode_table.json, the host's register-window accesses (20_memory.md R32,
30_encoding.md R46) and the operations of a host program (R46, R47), and the turns of the agents (10_state.md R13). -/

namespace Sys2Proof

/-- The five commands (30_encoding.md R43). A command carries no operand: every operand is a register or buffer (R42). -/
inductive Instr where
  /-- DECODE, OP 0x01: SECRET to KEY (40_secret_decoder.md R56). -/
  | decode
  /-- HMAC_CTR, OP 0x02: COUNTER to MSG and MAC under KEY (42_hmac_sha1.md R69). -/
  | hmacCtr
  /-- TRUNC, OP 0x03: MAC to TRUNC, CODE_VALUE, CODE (43_truncation.md R76). -/
  | trunc
  /-- GEN_HOTP, OP 0x04: COUNTER to code (44_code_generation.md R77). -/
  | genHotp
  /-- GEN_TOTP, OP 0x05: TIME to COUNTER to code (44_code_generation.md R78). -/
  | genTotp
  deriving DecidableEq, Repr

/-- The registers of the window (10_state.md R15 to R27). -/
inductive Reg where
  | status | cmd | valid | digits | timeHi | timeLo | counterHi | counterLo
  | secretLen | keyLen | trunc | codeValue | codeLen | caps
  deriving DecidableEq, Repr

/-- One host access of the register window (20_memory.md R32; R46 for the notation). -/
inductive Access where
  /-- `R8 off`: an 8-bit read. -/
  | r8 (off : Offset)
  /-- `R32 off`: a 32-bit read. -/
  | r32 (off : Offset)
  /-- `W8 off, b`: an 8-bit write. -/
  | w8 (off : Offset) (b : Byte)
  /-- `W32 off, v`: a 32-bit write. -/
  | w32 (off : Offset) (v : Word)
  /-- A read of a width that is neither 8 nor 32 bits: a host-contract violation (R32). -/
  | readOther (off : Offset) (bits : Nat)
  /-- A write of a width that is neither 8 nor 32 bits: a host-contract violation (R32). -/
  | writeOther (off : Offset) (bits : Nat)
  deriving DecidableEq, Repr

/-- One operation of a host program: an access, or a loop of the host's own (R46, R47). -/
inductive HostOp where
  | access (a : Access)
  /-- `WAIT`: repeat `R32 0x0000` until bit 0 of the value read is 0. -/
  | wait
  /-- `RDCODE`: `R32 0x0030 -> len`, then `R8 0x0040+i` for i below len. -/
  | rdCode
  deriving DecidableEq, Repr

/-- Who moves in a step (10_state.md R13): the host, the engine, or the platform that asserts reset
(70_reset_and_hazards.md R91). -/
inductive Turn where
  | host | engine | reset
  deriving DecidableEq, Repr

end Sys2Proof
end

