-- ==== Sys2Proof/Machine/State.lean ====
section
/-! DEFINITION. The state of the block (10_state.md R13 to R29), of the host that drives it and of the schedule that
says who moves next; the faults and refusals; the state after reset (70_reset_and_hazards.md R90). -/

namespace Sys2Proof.Machine

/-- The two fault reasons of 93_implementation_defined.md (U5, U6). They are model faults, not block errors. -/
inductive Fault where
  /-- ACCESS (R32, U5): a host access of a width other than 8 or 32 bits, a misaligned 32-bit access, or an 8-bit write
  to offsets 0x0000 to 0x003F. Raised by Machine/Window.lean. Safe: the spec gives the access no effect. -/
  | access
  /-- HOST_HAZARD (R93, U6): any host write while BUSY = 1. Raised by Machine/Window.lean. Safe: the spec gives the
  write no effect. -/
  | hostHazard
  deriving DecidableEq, Repr

/-- Why the model has no meaning for an instruction. No arm of exec refuses. -/
inductive Refusal where
  /-- A command that has no meaning yet. Raised by no arm of Machine/Dispatch.lean. Safe. -/
  | notModelled (mnemonic : String)
  deriving DecidableEq, Repr

/-- The errors a command completes with (60_exceptions.md R80); their codes are in Machine/Flags.lean. -/
inductive CmdError where
  | illegalCmd | length | badChar | noKey | digits | noMac
  deriving DecidableEq, Repr

/-- STATUS (R15). Its reserved bits read 0, so they are not stored. -/
@[ext]
structure Status where
  busy : Bool
  done : Bool
  err : Bool
  errCode : Byte
  deriving DecidableEq, Repr

/-- VALID (R20). Its reserved bits read 0, so they are not stored. -/
@[ext]
structure Valid where
  key : Bool
  mac : Bool
  code : Bool
  deriving DecidableEq, Repr

/-- The bytes that have been written in the window's buffers SECRET, KEY, MSG, MAC and CODE (R28), keyed by window
offset; its canonical form is `Memory.wf` in Machine/Ops.lean. -/
abbrev Memory := List Host.Cell

/-- What a host read returned: 8 or 32 bits (R46). -/
inductive ReadValue where
  | byte (b : Byte)
  | word (w : Word)
  deriving DecidableEq, Repr

/-- One read the host has made: the offset and the value returned. -/
structure ReadRecord where
  off : Offset
  value : ReadValue
  deriving DecidableEq, Repr

/-- The whole machine: the block, the host and the schedule. -/
@[ext]
structure State where
  /-- The implementation's parameter; CAPS reads it (R6, R24). -/
  config : Config
  /-- STATUS (R15). -/
  status : Status
  /-- PENDING, hidden: the CMD word latched at issue (R18). -/
  pending : Word
  /-- VALID (R20). -/
  valid : Valid
  /-- DIGITS bits 3:0 (R21). -/
  digits : BitVec 4
  /-- TIME_HI (R22). -/
  timeHi : Word
  /-- TIME_LO (R22). -/
  timeLo : Word
  /-- COUNTER_HI (R23). -/
  counterHi : Word
  /-- COUNTER_LO (R23). -/
  counterLo : Word
  /-- SECRET_LEN bits 15:0 (R25). -/
  secretLen : BitVec 16
  /-- KEY_LEN bits 15:0 (R26). -/
  keyLen : BitVec 16
  /-- TRUNC bits 30:0 (R27). -/
  trunc : BitVec 31
  /-- CODE_VALUE (R27). -/
  codeValue : Word
  /-- CODE_LEN bits 3:0 (R27). -/
  codeLen : BitVec 4
  /-- SECRET, KEY, MSG, MAC, CODE (R28). -/
  mem : Memory
  /-- The model's own: the number of the draw that gave SECRET and KEY their unspecified bytes (U8). -/
  ramDraw : Nat
  /-- The model's own: the number of the next draw of a free value (U7, U8). -/
  draws : Nat
  /-- The model's own: whose turn each coming step is; empty means the default of Machine/Step.lean. -/
  schedule : List Turn
  /-- The host's operations still to be performed, in order (R37, R46). -/
  program : List HostOp
  /-- What the host's reads have returned, the latest first (R46). -/
  hostReads : List ReadRecord
  deriving DecidableEq, Repr

/-- The machine right after reset (R90) at the reference capacity of R6, with no host operation waiting. -/
def State.reset : State :=
  { config := Config.reference
    status := { busy := false, done := false, err := false, errCode := 0#8 }
    pending := 0#32
    valid := { key := false, mac := false, code := false }
    digits := 0#4
    timeHi := 0#32
    timeLo := 0#32
    counterHi := 0#32
    counterLo := 0#32
    secretLen := 0#16
    keyLen := 0#16
    trunc := 0#31
    codeValue := 0#32
    codeLen := 0#4
    mem := []
    ramDraw := 0
    draws := 1
    schedule := []
    program := []
    hostReads := [] }

end Sys2Proof.Machine
end

