-- ==== Sys2Proof/Machine/Bytes.lean ====
section
/-! DEFINITION. Byte sequences and big-endian conversion (00_scope.md R8, R9, R10). -/

namespace Sys2Proof.Machine

/-- be_bytes_n(v) of R10: byte 0 is v[8n-1:8n-8], the last byte is v[7:0]. -/
def beBytes : Nat → Nat → List Byte
  | 0, _ => []
  | n + 1, v => BitVec.ofNat 8 (v >>> (8 * n)) :: beBytes n v

/-- be_value(s) of R10: the first byte is the most significant. -/
def beValue (s : List Byte) : Nat := s.foldl (fun acc b => acc * 256 + b.toNat) 0

/-- zeros(n) of R8. -/
def zeros (n : Nat) : List Byte := List.replicate n 0#8

/-- ROTL_n(x) of R9, for a 32-bit x. -/
def rotl (n : Nat) (x : Word) : Word := (x <<< n) ||| (x >>> (32 - n))

/-- Byte k of a 32-bit value under the window's big-endian order (20_memory.md R31): bits [31-8k:24-8k]. -/
def wordByte (w : Word) (k : Nat) : Byte := w.extractLsb' (24 - 8 * k) 8

/-- The 32-bit value of four bytes in the window's big-endian order (R31). -/
def wordOfBytes (b0 b1 b2 b3 : Byte) : Word := b0 ++ b1 ++ b2 ++ b3

end Sys2Proof.Machine
end

