-- ==== Sys2Proof/Machine/Flags.lean ====
section
/-! DEFINITION. The flags: STATUS (10_state.md R15), VALID (R20), the error codes (60_exceptions.md R80) and which VALID
bits each command clears when it fails (R82). The block has no condition codes (R29). -/

namespace Sys2Proof.Machine

/-- The error codes of R80. -/
def CmdError.code : CmdError → Byte
  | .illegalCmd => 0x01#8
  | .length => 0x02#8
  | .badChar => 0x03#8
  | .noKey => 0x04#8
  | .digits => 0x05#8
  | .noMac => 0x06#8

/-- The 32-bit value of STATUS: BUSY 0, DONE 1, ERR 2, ERRCODE 15:8, every other bit 0 (R15). -/
def Status.toWord (st : Status) : Word :=
  0#16 ++ st.errCode ++ 0#5 ++ BitVec.ofBool st.err ++ BitVec.ofBool st.done ++ BitVec.ofBool st.busy

/-- STATUS while nothing was ever issued: the reset value (R15, R90). -/
def Status.idle : Status := { busy := false, done := false, err := false, errCode := 0x00#8 }

/-- STATUS from the issue of a command (R15, R19): BUSY 1, DONE 0, ERR 0, ERRCODE 0. -/
def Status.issued : Status := { busy := true, done := false, err := false, errCode := 0x00#8 }

/-- STATUS after a completion without error (R15, R81). -/
def Status.succeeded : Status := { busy := false, done := true, err := false, errCode := 0x00#8 }

/-- STATUS after a completion with error e (R15, R81). -/
def Status.failed (e : CmdError) : Status := { busy := false, done := true, err := true, errCode := e.code }

/-- The 32-bit value of VALID: KEY_VALID 0, MAC_VALID 1, CODE_VALID 2, every other bit 0 (R20). -/
def Valid.toWord (v : Valid) : Word :=
  0#29 ++ BitVec.ofBool v.code ++ BitVec.ofBool v.mac ++ BitVec.ofBool v.key

/-- VALID after reset (R20, R90). -/
def Valid.none : Valid := { key := false, mac := false, code := false }

/-- KEY_VALID <- b. -/
def Valid.setKey (b : Bool) (v : Valid) : Valid := { v with key := b }

/-- MAC_VALID <- b. -/
def Valid.setMac (b : Bool) (v : Valid) : Valid := { v with mac := b }

/-- CODE_VALID <- b. -/
def Valid.setCode (b : Bool) (v : Valid) : Valid := { v with code := b }

/-- MAC_VALID and CODE_VALID <- b. -/
def Valid.setMacCode (b : Bool) (v : Valid) : Valid := { v with mac := b, code := b }

/-- The VALID bits a failing command clears: those of the outputs it would have written (R82). -/
def Valid.clearedBy : Instr → Valid → Valid
  | .decode => Valid.setKey false
  | .hmacCtr => Valid.setMac false
  | .trunc => Valid.setCode false
  | .genHotp => Valid.setMacCode false
  | .genTotp => Valid.setMacCode false

end Sys2Proof.Machine
end

