-- ==== Sys2Proof/Machine/Ops.lean ====
section
/-! DEFINITION. The named operations: the buffers as one memory keyed by window offset (20_memory.md R30, R34;
10_state.md R28), issue and completion of a command (R15, R19; 60_exceptions.md R81, R82), reset
(70_reset_and_hazards.md R90, R91) and the host's record of what it read (30_encoding.md R46). -/

namespace Sys2Proof.Machine

/-- Base offset of CODE, 16 bytes (R30). -/
def codeBase : Nat := 0x0040
/-- Base offset of MSG, 8 bytes (R30). -/
def msgBase : Nat := 0x0050
/-- Base offset of MAC, 20 bytes (R30). -/
def macBase : Nat := 0x0060
/-- Base offset of SECRET, SECRET_MAX bytes (R30, R34). -/
def secretBase : Nat := 0x1000
/-- Base offset of KEY, KEY_MAX bytes (R30, R34). -/
def keyBase : Nat := 0x2000

/-- Offset a holds a byte of SECRET below SECRET_MAX or of KEY below KEY_MAX: what the host may write (R30, R34). -/
def isRam (c : Config) (a : Nat) : Bool :=
  (decide (secretBase ≤ a) && decide (a < secretBase + c.secretMax)) ||
    (decide (keyBase ≤ a) && decide (a < keyBase + c.keyMax))

/-- Offset a holds a byte of CODE, MSG or MAC (R30). -/
def isResult (a : Nat) : Bool :=
  (decide (codeBase ≤ a) && decide (a < codeBase + 16)) || (decide (msgBase ≤ a) && decide (a < msgBase + 8)) ||
    (decide (macBase ≤ a) && decide (a < macBase + 20))

/-- Offset a holds a byte of one of the five buffers of R28; every other offset from 0x0040 up is reserved (R30, R34). -/
def isBuffer (c : Config) (a : Nat) : Bool := isRam c a || isResult a

/-- What an offset that no cell lists reads as: a byte of CODE, MSG or MAC its reset value 0x00, a byte of SECRET or KEY
the free value of its draw (R90, U8), a reserved offset 0 (R33). -/
def unlistedByte (c : Config) (draw a : Nat) : Byte := if isRam c a then Config.freeRamByte draw a else 0#8

/-- The byte a cell list gives offset a, if it lists one. -/
def Memory.lookup : Memory → Nat → Option Byte
  | [], _ => none
  | (x, y) :: m, a => if x = a then some y else Memory.lookup m a

/-- The list with offset a listed as b, in rising order. -/
def Memory.insert : Memory → Nat → Byte → Memory
  | [], a, b => [(a, b)]
  | (x, y) :: m, a, b =>
    if a < x then (a, b) :: (x, y) :: m
    else if a = x then (a, b) :: m
    else (x, y) :: Memory.insert m a b

/-- The list without offset a. -/
def Memory.erase : Memory → Nat → Memory
  | [], _ => []
  | (x, y) :: m, a => if x = a then Memory.erase m a else (x, y) :: Memory.erase m a

/-- One byte stored. A byte of SECRET or KEY is always listed: what it would read as unlisted is a free value. A zero in
CODE, MSG or MAC is what an unlisted one reads as, so it removes the entry. -/
def Memory.write (c : Config) (m : Memory) (a : Nat) (b : Byte) : Memory :=
  if isRam c a then m.insert a b
  else if b = 0#8 then m.erase a
  else m.insert a b

/-- A cell the canonical form allows: a buffer byte, and not a zero where an unlisted byte reads 0. -/
def cellOk (c : Config) (x : Host.Cell) : Bool := isBuffer c x.1 && (isRam c x.1 || decide (x.2 ≠ 0#8))

/-- Every cell of the list lies above offset a. -/
def Memory.above (a : Nat) (m : Memory) : Bool := m.all fun x => decide (a < x.1)

/-- The canonical form: offsets strictly rising, every cell allowed. -/
def Memory.wf (c : Config) : Memory → Bool
  | [] => true
  | x :: m => cellOk c x && Memory.above x.1 m && Memory.wf c m

/-- buf[NAME][i] of R11, by window offset: the byte last written, or what the unlisted offset reads as. -/
def State.readByte (s : State) (a : Nat) : Byte :=
  match s.mem.lookup a with
  | some b => b
  | none => unlistedByte s.config s.ramDraw a

/-- buf[NAME][i] <- b of R11, by window offset. An offset that is no buffer byte is reserved: the write is ignored (R33). -/
def State.storeByte (s : State) (a : Nat) (b : Byte) : State :=
  if isBuffer s.config a then { s with mem := s.mem.write s.config a b } else s

/-- n bytes from offset a, the first first: buf[NAME][0..n) of R11. -/
def State.readBytes (s : State) : Nat → Nat → List Byte
  | _, 0 => []
  | a, n + 1 => s.readByte a :: s.readBytes (a + 1) n

/-- The bytes bs stored from offset a on. -/
def State.storeBytes (s : State) : Nat → List Byte → State
  | _, [] => s
  | a, b :: bs => (s.storeByte a b).storeBytes (a + 1) bs

/-- reg[VALID] <- v (10_state.md R20). -/
def State.setValid (s : State) (v : Valid) : State := { s with valid := v }

/-- reg[KEY_LEN] <- n, bits 15:0 (10_state.md R26). -/
def State.setKeyLen (s : State) (n : BitVec 16) : State := { s with keyLen := n }

/-- reg[COUNTER_HI] <- c[63:32] and reg[COUNTER_LO] <- c[31:0] (44_code_generation.md R78). -/
def State.setCounter (s : State) (c : Wide) : State :=
  { s with counterHi := c.extractLsb' 32 32, counterLo := c.extractLsb' 0 32 }

/-- reg[TRUNC] <- t, reg[CODE_VALUE] <- v, reg[CODE_LEN] <- d (43_truncation.md R76). -/
def State.setCodeRegs (s : State) (t : BitVec 31) (v : Word) (d : BitVec 4) : State :=
  { s with trunc := t, codeValue := v, codeLen := d }

/-- Issue of a command by a write of w to CMD (R15, R19). -/
def State.issue (s : State) (w : Word) : State := { s with pending := w, status := Status.issued }

/-- Completion without error: STATUS says so, and the command's writes stand (R81). -/
def State.succeed (s : State) : State := { s with status := Status.succeeded }

/-- Completion with error e, the block's form of an exception: no register or buffer is written but STATUS and VALID,
where clear names the bits that fall (R81, R82, R85). -/
def State.fail (s : State) (e : CmdError) (clear : Valid → Valid) : State :=
  { s with status := Status.failed e, valid := clear s.valid }

/-- The completion step of command i on state s, whose pseudocode answered r: the written state, or the error it raised
(R81, R82). The results a failing command had computed are dropped. -/
def State.complete (s : State) (i : Instr) (r : Except CmdError State) : State :=
  match r with
  | .ok t => t.succeed
  | .error e => s.fail e (Valid.clearedBy i)

/-- The host's record of one read. -/
def State.record (s : State) (off : Offset) (v : ReadValue) : State :=
  { s with hostReads := { off := off, value := v } :: s.hostReads }

/-- The block's reset (R90, R91): every register and result byte at its reset value, CAPS kept, and the bytes of SECRET
and KEY drawn anew. The host and the schedule are outside the block and stay. -/
def State.resetBlock (s : State) : State :=
  { config := s.config
    status := { busy := false, done := false, err := false, errCode := 0#8 }
    pending := 0#32
    valid := { key := false, mac := false, code := false }
    digits := 0#4
    timeHi := 0#32
    timeLo := 0#32
    counterHi := 0#32
    counterLo := 0#32
    secretLen := 0#16
    keyLen := 0#16
    trunc := 0#31
    codeValue := 0#32
    codeLen := 0#4
    mem := []
    ramDraw := s.draws
    draws := s.draws + 1
    schedule := s.schedule
    program := s.program
    hostReads := s.hostReads }

end Sys2Proof.Machine
end

