-- ==== Sys2Proof/Machine/Operands.lean ====
section
/-! DEFINITION. Operand assembly (30_encoding.md R45; 10_state.md R21, R22, R23, R25, R26). -/

namespace Sys2Proof.Machine

/-- TIME: TIME_HI is the high word (R22, R45). -/
def State.time (s : State) : Wide := s.timeHi ++ s.timeLo

/-- COUNTER: COUNTER_HI is the high word (R23, R45). -/
def State.counter (s : State) : Wide := s.counterHi ++ s.counterLo

/-- SECRET[0..SECRET_LEN), the secret text (R25, R28). -/
def State.secretBytes (s : State) : List Byte := s.readBytes secretBase s.secretLen.toNat

/-- KEY[0..KEY_LEN), the key (R26, R28). -/
def State.keyBytes (s : State) : List Byte := s.readBytes keyBase s.keyLen.toNat

/-- MSG[0..8), the counter bytes (R28). -/
def State.msgBytes (s : State) : List Byte := s.readBytes msgBase 8

/-- MAC[0..20) (R28). -/
def State.macBytes (s : State) : List Byte := s.readBytes macBase 20

/-- CODE[0..16) (R28). -/
def State.codeBytes (s : State) : List Byte := s.readBytes codeBase 16

/-- The digit selector DIGITS[3:0], zero-extended (R21, R45). -/
def State.digitSelector (s : State) : Nat := s.digits.toNat

end Sys2Proof.Machine
end

