-- ==== Sys2Proof/Machine/CounterSerializer.lean ====
section
/-! DEFINITION. The time-step divider and the counter serializer (41_counter_serializer.md R58 to R61). -/

namespace Sys2Proof.Machine

/-- TimeStep(TIME) = TIME div 30, unsigned and exact on 64 bits (R58). -/
def timeStep (t : Wide) : Wide := t / 30#64

/-- Serialize(C): msg[i] = C[63-8i:56-8i] for i in 0..7 (R61). -/
@[irreducible] def serialize (c : Wide) : List Byte := (List.range 8).map fun i => c.extractLsb' (56 - 8 * i) 8

end Sys2Proof.Machine
end

