-- ==== Sys2Proof/Machine/HmacSha1.lean ====
section
/-! DEFINITION. SHA-1, HMAC-SHA1 and HMAC_CTR (42_hmac_sha1.md R62 to R70). The working state of SHA-1 lives inside one
completion step (10_state.md R29, R90): it is a value of these functions and no field of State. -/

namespace Sys2Proof.Machine

/-- The number of zero bytes Pad adds to a message of L bytes: the least k with (L + 1 + k) mod 64 = 56 (R63). -/
def padZeros (L : Nat) : Nat := (119 - L % 64) % 64

/-- Pad(M) (R63). -/
def pad (m : List Byte) : List Byte := m ++ 0x80#8 :: (zeros (padZeros m.length) ++ beBytes 8 (8 * m.length))

/-- N, the number of 64-byte blocks of the padded message of L bytes (R63). -/
def blockCount (L : Nat) : Nat := (L + 8) / 64 + 1

/-- The first n 64-byte blocks of a padded message (R63). -/
def blocks : Nat → List Byte → List (List Byte)
  | 0, _ => []
  | n + 1, m => m.take 64 :: blocks n (m.drop 64)

/-- The 32-bit words of a block, each read big-endian (R63). -/
def blockWords : List Byte → List Word
  | b0 :: b1 :: b2 :: b3 :: r => wordOfBytes b0 b1 b2 b3 :: blockWords r
  | _ => []

/-- Five 32-bit words: the chaining value H0..H4, and the working variables a..e (R64, R66). -/
structure Chain where
  a : Word
  b : Word
  c : Word
  d : Word
  e : Word
  deriving DecidableEq, Repr

/-- The initial hash value (R64). -/
def Chain.initial : Chain :=
  { a := 0x67452301#32, b := 0xEFCDAB89#32, c := 0x98BADCFE#32, d := 0x10325476#32, e := 0xC3D2E1F0#32 }

/-- f_t(x, y, z) (R65). -/
def roundFunction (t : Nat) (x y z : Word) : Word :=
  if t < 20 then (x &&& y) ^^^ (~~~x &&& z)
  else if t < 40 then x ^^^ y ^^^ z
  else if t < 60 then (x &&& y) ^^^ (x &&& z) ^^^ (y &&& z)
  else x ^^^ y ^^^ z

/-- K_t (R65). -/
def roundConstant (t : Nat) : Word :=
  if t < 20 then 0x5A827999#32
  else if t < 40 then 0x6ED9EBA1#32
  else if t < 60 then 0x8F1BBCDC#32
  else 0xCA62C1D6#32

/-- The message schedule, the latest word first: n more words, each ROTL_1 of the XOR of the words 3, 8, 14 and 16
places back (R66). -/
def extendSchedule : Nat → List Word → List Word
  | 0, ws => ws
  | n + 1, ws =>
    extendSchedule n (rotl 1 (ws.getD 2 0#32 ^^^ ws.getD 7 0#32 ^^^ ws.getD 13 0#32 ^^^ ws.getD 15 0#32) :: ws)

/-- W_0 .. W_79 of a block (R63, R66). -/
def messageSchedule (block : List Byte) : List Word := (extendSchedule 64 (blockWords block).reverse).reverse

/-- Round t with schedule word w (R66). -/
def round (t : Nat) (w : Word) (v : Chain) : Chain :=
  { a := rotl 5 v.a + roundFunction t v.b v.c v.d + v.e + roundConstant t + w
    b := v.a
    c := rotl 30 v.b
    d := v.c
    e := v.d }

/-- The rounds from round t on, one for each schedule word (R66). -/
def rounds : Nat → List Word → Chain → Chain
  | _, [], v => v
  | t, w :: ws, v => rounds (t + 1) ws (round t w v)

/-- H0..H4 after one block: the working variables added to the chaining value, mod 2^32 (R66). -/
def compress (h : Chain) (block : List Byte) : Chain :=
  let v := rounds 0 (messageSchedule block) h
  { a := h.a + v.a, b := h.b + v.b, c := h.c + v.c, d := h.d + v.d, e := h.e + v.e }

/-- The digest of a chaining value: its five words, each big-endian (R67). -/
def Chain.digest (h : Chain) : List Byte :=
  beBytes 4 h.a.toNat ++ beBytes 4 h.b.toNat ++ beBytes 4 h.c.toNat ++ beBytes 4 h.d.toNat ++ beBytes 4 h.e.toNat

/-- The blocks SHA-1 compresses for a message (R63). -/
def messageBlocks (m : List Byte) : List (List Byte) := blocks (blockCount m.length) (pad m)

/-- SHA1(M), 20 bytes (R62 to R67). -/
@[irreducible] def sha1 (m : List Byte) : List Byte := ((messageBlocks m).foldl compress Chain.initial).digest

/-- K0: the key as one 64-byte block, hashed first when it is longer (R68, D30). -/
def keyBlock (key : List Byte) : List Byte :=
  if 64 < key.length then sha1 key ++ zeros 44 else key ++ zeros (64 - key.length)

/-- Every byte of a block XORed with b (R68). -/
def xorPad (b : Byte) (k : List Byte) : List Byte := k.map fun x => x ^^^ b

/-- The message of the inner hash (R68). -/
def innerMessage (key text : List Byte) : List Byte := xorPad 0x36#8 (keyBlock key) ++ text

/-- The message of the outer hash (R68). -/
def outerMessage (key text : List Byte) : List Byte := xorPad 0x5C#8 (keyBlock key) ++ sha1 (innerMessage key text)

/-- HMAC_SHA1(key, text), 20 bytes (R68). -/
@[irreducible] def hmacSha1 (key text : List Byte) : List Byte := sha1 (outerMessage key text)

/-- The compression calls of one HMAC computation (R70): a count of work that no step depends on. -/
def compressionCalls (key text : List Byte) : Nat :=
  (if 64 < key.length then (messageBlocks key).length else 0) + (messageBlocks (innerMessage key text)).length +
    (messageBlocks (outerMessage key text)).length

/-- The checks of a command that uses the key: NO_KEY, then LENGTH (R69, R77, R78, R83). -/
def checkKey (s : State) : Except CmdError Unit :=
  if s.valid.key = false then .error .noKey
  else if s.config.keyMax < s.keyLen.toNat then .error .length
  else .ok ()

/-- MSG and MAC written for counter c under the key of state s (R69, R77). -/
def State.writeMac (s : State) (c : Wide) : State :=
  (s.storeBytes msgBase (serialize c)).storeBytes macBase (hmacSha1 s.keyBytes (serialize c))

/-- The pseudocode of HMAC_CTR (R69). -/
def runHmacCtr (s : State) : Except CmdError State :=
  match checkKey s with
  | .error e => .error e
  | .ok _ => .ok ((s.writeMac s.counter).setValid (s.valid.setMac true))

/-- HMAC_CTR, OP 0x02: its completion step (R69, R81, R82). -/
def execHmacCtr (s : State) : Host.Outcome State Fault Refusal := .next (s.complete .hmacCtr (runHmacCtr s))

end Sys2Proof.Machine
end

