-- ==== Sys2Proof/Machine/Truncation.lean ====
section
/-! DEFINITION. Dynamic truncation, decimal formatting and TRUNC (43_truncation.md R71 to R76). -/

namespace Sys2Proof.Machine

/-- DigitCount(sel): 0 is the default 6, 1 to 10 that many digits, 11 to 15 the error DIGITS (R71). -/
def digitCount (sel : Nat) : Except CmdError Nat :=
  if sel = 0 then .ok 6
  else if sel ≤ 10 then .ok sel
  else .error .digits

/-- off = mac[19] & 0x0F (R72). -/
def truncOffset (mac : List Byte) : Nat := (mac.getD 19 0#8 &&& 0x0F#8).toNat

/-- P = be_value(mac[off .. off+4)) (R73). -/
def truncWord (mac : List Byte) : Word :=
  wordOfBytes (mac.getD (truncOffset mac) 0#8) (mac.getD (truncOffset mac + 1) 0#8)
    (mac.getD (truncOffset mac + 2) 0#8) (mac.getD (truncOffset mac + 3) 0#8)

/-- TRUNC = P & 0x7FFFFFFF, 31 bits (R73). -/
def truncatedValue (mac : List Byte) : BitVec 31 := (truncWord mac &&& 0x7FFFFFFF#32).extractLsb' 0 31

/-- CODE_VALUE = TRUNC mod 10^d, exact (R74). -/
def codeValueOf (t : BitVec 31) (d : Nat) : Nat := t.toNat % 10 ^ d

/-- code[i] for a CODE_VALUE v of d digits: an ASCII digit below d, 0x00 from d on (R75). -/
def codeByte (v d i : Nat) : Byte := if i < d then BitVec.ofNat 8 (0x30 + (v / 10 ^ (d - 1 - i)) % 10) else 0x00#8

/-- CODE[0..16) (R75). -/
@[irreducible] def codeText (v d : Nat) : List Byte := (List.range 16).map (codeByte v d)

/-- TRUNC, CODE_VALUE, CODE_LEN and CODE written for the MAC mac and digit count d (R76, R77). -/
def State.writeCode (s : State) (mac : List Byte) (d : Nat) : State :=
  (s.storeBytes codeBase (codeText (codeValueOf (truncatedValue mac) d) d)).setCodeRegs (truncatedValue mac)
    (BitVec.ofNat 32 (codeValueOf (truncatedValue mac) d)) (BitVec.ofNat 4 d)

/-- The pseudocode of TRUNC: NO_MAC, then DIGITS (R76, R83). -/
def runTrunc (s : State) : Except CmdError State :=
  if s.valid.mac = false then .error .noMac
  else
    match digitCount s.digitSelector with
    | .error e => .error e
    | .ok d => .ok ((s.writeCode s.macBytes d).setValid (s.valid.setCode true))

/-- TRUNC, OP 0x03: its completion step (R76, R81, R82). -/
def execTrunc (s : State) : Host.Outcome State Fault Refusal := .next (s.complete .trunc (runTrunc s))

end Sys2Proof.Machine
end

