-- ==== Sys2Proof/Machine/CodeGeneration.lean ====
section
/-! DEFINITION. GEN_HOTP and GEN_TOTP (44_code_generation.md R77, R78). -/

namespace Sys2Proof.Machine

/-- The checks of the two commands: NO_KEY, LENGTH, DIGITS, all before any result is computed (R77, R78, R83). -/
def checkGenerate (s : State) : Except CmdError Nat :=
  match checkKey s with
  | .error e => .error e
  | .ok _ => digitCount s.digitSelector

/-- The writes of the chain counter, MSG, MAC, code for counter c and digit count d (R77). -/
def State.writeGenerated (s : State) (c : Wide) (d : Nat) : State :=
  ((s.writeMac c).writeCode (hmacSha1 s.keyBytes (serialize c)) d).setValid (s.valid.setMacCode true)

/-- The pseudocode of GEN_HOTP (R77). -/
def runGenHotp (s : State) : Except CmdError State :=
  match checkGenerate s with
  | .error e => .error e
  | .ok d => .ok (s.writeGenerated s.counter d)

/-- The pseudocode of GEN_TOTP: that of GEN_HOTP from the time step, which is written back to COUNTER (R78). -/
def runGenTotp (s : State) : Except CmdError State :=
  match checkGenerate s with
  | .error e => .error e
  | .ok d =>
    .ok ((s.writeGenerated (timeStep s.time) d).setCounter (timeStep s.time))

/-- GEN_HOTP, OP 0x04: its completion step (R77, R81, R82). -/
def execGenHotp (s : State) : Host.Outcome State Fault Refusal := .next (s.complete .genHotp (runGenHotp s))

/-- GEN_TOTP, OP 0x05: its completion step (R78, R81, R82). -/
def execGenTotp (s : State) : Host.Outcome State Fault Refusal := .next (s.complete .genTotp (runGenTotp s))

end Sys2Proof.Machine
end

