-- ==== Sys2Proof/Machine/SecretDecoder.lean ====
section
/-! DEFINITION. The Secret Decoder and DECODE (40_secret_decoder.md R48 to R57). -/

namespace Sys2Proof.Machine

/-- n lies in lo..hi. -/
def inRange (lo hi n : Nat) : Bool := decide (lo ≤ n) && decide (n ≤ hi)

/-- IsHexDigit(c) (R48). -/
def isHexDigit (c : Byte) : Bool :=
  inRange 0x30 0x39 c.toNat || inRange 0x41 0x46 c.toNat || inRange 0x61 0x66 c.toNat

/-- HexVal(c), for a hex digit c (R48). -/
def hexVal (c : Byte) : Nat :=
  if inRange 0x30 0x39 c.toNat then c.toNat - 0x30
  else if inRange 0x41 0x46 c.toNat then c.toNat - 0x41 + 10
  else c.toNat - 0x61 + 10

/-- IsSpace(c) (R48, D8). -/
def isSpace (c : Byte) : Bool := inRange 0x09 0x0D c.toNat || decide (c.toNat = 0x20)

/-- B32Val(c), none for a byte that has no Base32 value (R48, D7). -/
def b32Val (c : Byte) : Option Nat :=
  if inRange 0x41 0x5A c.toNat then some (c.toNat - 0x41)
  else if inRange 0x61 0x7A c.toNat then some (c.toNat - 0x61)
  else if inRange 0x32 0x37 c.toNat then some (c.toNat - 0x32 + 26)
  else none

/-- IsHex(s): one or more pairs of hex digits and nothing else (R49). -/
def isHex (s : List Byte) : Bool := decide (2 ≤ s.length) && decide (s.length % 2 = 0) && s.all isHexDigit

/-- The pairs of an even-length string of hex digits, each one byte (R50). -/
def hexPairs : List Byte → List Byte
  | a :: b :: r => BitVec.ofNat 8 (hexVal a * 16 + hexVal b) :: hexPairs r
  | _ => []

/-- HexDecode(h), with the leading '0' of an odd-length string (R50). -/
def hexDecode (h : List Byte) : List Byte := if h.length % 2 = 1 then hexPairs (0x30#8 :: h) else hexPairs h

/-- Strip(s): all whitespace, then the maximal run of '=' at the end (R51, D9). -/
def strip (s : List Byte) : List Byte :=
  ((s.filter fun c => !isSpace c).reverse.dropWhile fun c => decide (c = 0x3D#8)).reverse

/-- The Base32 values of a stripped text, none if some byte has none (R52). -/
def b32Values : List Byte → Option (List Nat)
  | [] => some []
  | c :: r =>
    match b32Val c, b32Values r with
    | some v, some vs => some (v :: vs)
    | _, _ => none

/-- Fold: acc <- (acc << 5) | v, the first character most significant (R53). -/
def foldValues (vs : List Nat) : Nat := vs.foldl (fun acc v => (acc <<< 5) ||| v) 0

/-- V = acc >> tb with tb = (5 m) mod 8, for the m values of a stripped text (R54). -/
def base32Integer (vs : List Nat) : Nat := foldValues vs >>> ((5 * vs.length) % 8)

/-- The upper-case hex digit of a nibble (R55, D12). -/
def hexUpperDigit (n : Nat) : Byte := if n < 10 then BitVec.ofNat 8 (0x30 + n) else BitVec.ofNat 8 (0x41 + (n - 10))

/-- The number of hex digits of v without leading zeros; one for 0 (R55). -/
def hexLength (v : Nat) : Nat := v.log2 / 4 + 1

/-- The low n hex digits of v, the most significant first. -/
def hexDigits : Nat → Nat → List Byte
  | 0, _ => []
  | n + 1, v => hexDigits n (v / 16) ++ [hexUpperDigit (v % 16)]

/-- HexUpper(V): the minimal upper-case hex rendering, "0" for 0 (R55). -/
def hexUpper (v : Nat) : List Byte := hexDigits (hexLength v) v

/-- HexUpper(V) made even with one leading '0' where its length is odd (R55). -/
def evenHexUpper (v : Nat) : List Byte :=
  if (hexUpper v).length % 2 = 1 then 0x30#8 :: hexUpper v else hexUpper v

/-- The Base32 path on a text that is not hex (R51 to R55). -/
def base32Decode (s : List Byte) : Except CmdError (List Byte) :=
  match b32Values (strip s) with
  | none => .error .badChar
  | some vs => .ok (hexDecode (evenHexUpper (base32Integer vs)))

/-- The Secret Decoder as a function: hex is tried first, Base32 otherwise (R49, C8). -/
def decodeSecret (s : List Byte) : Except CmdError (List Byte) :=
  if isHex s then .ok (hexDecode s) else base32Decode s

/-- The writes of a successful DECODE of key k: KEY[0..len(k)), KEY_LEN, KEY_VALID (R56). -/
def State.writeKey (s : State) (k : List Byte) : State :=
  ((s.storeBytes keyBase k).setKeyLen (BitVec.ofNat 16 k.length)).setValid (s.valid.setKey true)

/-- The pseudocode of DECODE: LENGTH is checked before the text is looked at (R56, R83). -/
def runDecode (s : State) : Except CmdError State :=
  if s.config.secretMax < s.secretLen.toNat then .error .length
  else
    match decodeSecret s.secretBytes with
    | .error e => .error e
    | .ok k => .ok (s.writeKey k)

/-- DECODE, OP 0x01: its completion step (R56, R81, R82). -/
def execDecode (s : State) : Host.Outcome State Fault Refusal := .next (s.complete .decode (runDecode s))

end Sys2Proof.Machine
end

