-- ==== Sys2Proof/Machine/Dispatch.lean ====
section
/-! DEFINITION. One arm per command: the completion step of 60_exceptions.md R81 for a legal command word. -/

namespace Sys2Proof.Machine

def exec (i : Instr) (s : State) : Host.Outcome State Fault Refusal :=
  match i with
  | .decode => Sys2Proof.Machine.execDecode s
  | .hmacCtr => Sys2Proof.Machine.execHmacCtr s
  | .trunc => Sys2Proof.Machine.execTrunc s
  | .genHotp => Sys2Proof.Machine.execGenHotp s
  | .genTotp => Sys2Proof.Machine.execGenTotp s

end Sys2Proof.Machine
end

