-- ==== Sys2Proof/WellFormed.lean ====
section
/-! DEFINITION. The checks on terms: the parameter range of 00_scope.md R6, the form of a command word
(30_encoding.md R42, R43), and the form of a host access and of a host program (20_memory.md R32). -/

namespace Sys2Proof

/-- R6: 1 <= SECRET_MAX <= 4096. -/
def Config.wf (c : Config) : Bool := decide (1 ≤ c.secretMax) && decide (c.secretMax ≤ 4096)

/-- R42: a command carries no operand, so every term of Instr is well-formed. -/
def Instr.wf : Instr → Bool
  | .decode | .hmacCtr | .trunc | .genHotp | .genTotp => true

/-- R42, R43: a command word is well-formed when RSV, bits 31:8, is 0 and OP, bits 7:0, is an opcode of the table. -/
def commandWordWf (w : Word) : Bool :=
  decide (w.extractLsb' 8 24 = 0) && decide (1 ≤ (w.extractLsb' 0 8).toNat) && decide ((w.extractLsb' 0 8).toNat ≤ 5)

/-- R32: the form of an access the host contract allows in an idle block: 8 or 32 bits wide, a 32-bit access aligned,
and no 8-bit write to a register (offsets 0x0000 to 0x003F). -/
def Access.wf : Access → Bool
  | .r8 _ => true
  | .r32 off => decide (off.toNat % 4 = 0)
  | .w8 off _ => decide (0x40 ≤ off.toNat)
  | .w32 off _ => decide (off.toNat % 4 = 0)
  | .readOther _ _ => false
  | .writeOther _ _ => false

/-- An access that writes; R93 forbids it while BUSY = 1, whatever its offset. -/
def Access.isWrite : Access → Bool
  | .r8 _ | .r32 _ | .readOther _ _ => false
  | .w8 _ _ | .w32 _ _ | .writeOther _ _ => true

/-- A host operation is well-formed when its access is; the two loops of R47 read aligned offsets only. -/
def HostOp.wf : HostOp → Bool
  | .access a => a.wf
  | .wait | .rdCode => true

end Sys2Proof
end

