-- ==== Sys2Proof/Decode.lean ====
section
/-! DEFINITION. The command decoder and encoder (30_encoding.md R42, R43, R44). A command is one 32-bit word, CMD32:
OP in bits 7:0, RSV in bits 31:8. -/

namespace Sys2Proof

/-- Why a word is no command (R44). Both end in ILLEGAL_CMD; the block records no more than that code (R80). -/
inductive DecodeReject where
  /-- RSV, bits 31:8, is not 0. -/
  | reservedBits
  /-- RSV is 0 and OP is 0x00 or in 0x06 to 0xFF. -/
  | unassignedOpcode
  deriving DecidableEq, Repr

/-- OP, bits 7:0 of a command word (R42). -/
def opField (w : Word) : BitVec 8 := w.extractLsb' 0 8

/-- RSV, bits 31:8 of a command word (R42). -/
def rsvField (w : Word) : BitVec 24 := w.extractLsb' 8 24

/-- The opcode map of R43. -/
def opcodeOf (op : BitVec 8) : Option Instr :=
  if op = 0x01#8 then some .decode
  else if op = 0x02#8 then some .hmacCtr
  else if op = 0x03#8 then some .trunc
  else if op = 0x04#8 then some .genHotp
  else if op = 0x05#8 then some .genTotp
  else none

/-- The decoder, total on words: a command when RSV is 0 and OP is in the map, a named rejection otherwise (R43, R44). -/
def decode (w : Word) : Except DecodeReject Instr :=
  if rsvField w = 0#24 then
    match opcodeOf (opField w) with
    | some i => .ok i
    | none => .error .unassignedOpcode
  else .error .reservedBits

/-- The command word of a command: OP from R43, RSV = 0 (R42). -/
def encode : Instr → Word
  | .decode => 0x00000001#32
  | .hmacCtr => 0x00000002#32
  | .trunc => 0x00000003#32
  | .genHotp => 0x00000004#32
  | .genTotp => 0x00000005#32

/-- The decoder on a word numbered as spec/opcode_table.json numbers it; bits above nbits are 0, and a value that does
not fit the 32-bit CMD word is no command. -/
def decodeTableWord (nbits w : Nat) : Option Instr :=
  if w % 2 ^ nbits < 2 ^ 32 then
    match decode (BitVec.ofNat 32 (w % 2 ^ nbits)) with
    | .ok i => some i
    | .error _ => none
  else none

end Sys2Proof
end

