-- ==== Sys2Proof/Machine/Window.lean ====
section
/-! DEFINITION. The register window: the registers as words, and the host's accesses (20_memory.md R30 to R35;
70_reset_and_hazards.md R93, R94). -/

namespace Sys2Proof.Machine

/-- The register at a word-aligned offset below 0x0040; 0x0038 and 0x003C are reserved (R30). -/
def regAt (a : Nat) : Option Reg :=
  if a = 0x00 then some .status
  else if a = 0x04 then some .cmd
  else if a = 0x08 then some .valid
  else if a = 0x0C then some .digits
  else if a = 0x10 then some .timeHi
  else if a = 0x14 then some .timeLo
  else if a = 0x18 then some .counterHi
  else if a = 0x1C then some .counterLo
  else if a = 0x20 then some .secretLen
  else if a = 0x24 then some .keyLen
  else if a = 0x28 then some .trunc
  else if a = 0x2C then some .codeValue
  else if a = 0x30 then some .codeLen
  else if a = 0x34 then some .caps
  else none

/-- The value of CAPS: SECRET_MAX in bits 15:0, KEY_MAX in bits 31:16 (R24). -/
def capsWord (c : Config) : Word := BitVec.ofNat 16 c.keyMax ++ BitVec.ofNat 16 c.secretMax

/-- reg[NAME] of 00_scope.md R11 as a 32-bit word; reserved bits read 0, CMD reads 0 (10_state.md R15 to R27). -/
def State.readReg (s : State) : Reg → Word
  | .status => s.status.toWord
  | .cmd => 0#32
  | .valid => s.valid.toWord
  | .digits => s.digits.setWidth 32
  | .timeHi => s.timeHi
  | .timeLo => s.timeLo
  | .counterHi => s.counterHi
  | .counterLo => s.counterLo
  | .secretLen => s.secretLen.setWidth 32
  | .keyLen => s.keyLen.setWidth 32
  | .trunc => s.trunc.setWidth 32
  | .codeValue => s.codeValue
  | .codeLen => s.codeLen.setWidth 32
  | .caps => capsWord s.config

/-- A host write of a register while BUSY = 0: CMD issues (R19), KEY_LEN sets KEY_VALID (R26), reserved bits are dropped
(R21, R25, R26), a read-only register ignores it (R33). -/
def State.writeReg (s : State) (r : Reg) (v : Word) : State :=
  match r with
  | .status => s
  | .cmd => s.issue v
  | .valid => s
  | .digits => { s with digits := v.extractLsb' 0 4 }
  | .timeHi => { s with timeHi := v }
  | .timeLo => { s with timeLo := v }
  | .counterHi => { s with counterHi := v }
  | .counterLo => { s with counterLo := v }
  | .secretLen => { s with secretLen := v.extractLsb' 0 16 }
  | .keyLen => { s with keyLen := v.extractLsb' 0 16, valid := s.valid.setKey true }
  | .trunc => s
  | .codeValue => s
  | .codeLen => s
  | .caps => s

/-- The word at a word-aligned offset below 0x0040; a reserved one reads 0 (R30, R33). -/
def State.regWord (s : State) (a : Nat) : Word :=
  match regAt a with
  | some r => s.readReg r
  | none => 0#32

/-- What an 8-bit read of an offset returns in an idle block: a register's byte in big-endian order, a buffer's byte, 0
for a reserved offset (R31, R32, R33, R34). -/
def State.windowByte (s : State) (a : Nat) : Byte :=
  if a < 0x40 then wordByte (s.regWord (a / 4 * 4)) (a % 4)
  else if isBuffer s.config a then s.readByte a
  else 0#8

/-- What a 32-bit read of an aligned offset returns in an idle block (R31, R32). -/
def State.windowWord (s : State) (a : Nat) : Word :=
  if a < 0x40 then s.regWord a
  else wordOfBytes (s.windowByte a) (s.windowByte (a + 1)) (s.windowByte (a + 2)) (s.windowByte (a + 3))

/-- A host write of one byte from offset 0x0040 up: SECRET and KEY take it, read-only and reserved offsets ignore it
(R28, R33, R34). -/
def State.hostStore (s : State) (a : Nat) (b : Byte) : State := if isRam s.config a then s.storeByte a b else s

/-- A host write of an aligned word: a register's write, or four bytes in big-endian order (R31, R32). -/
def State.hostStoreWord (s : State) (a : Nat) (v : Word) : State :=
  if a < 0x40 then
    match regAt a with
    | some r => s.writeReg r v
    | none => s
  else
    (((s.hostStore a (wordByte v 0)).hostStore (a + 1) (wordByte v 1)).hostStore (a + 2) (wordByte v 2)).hostStore
      (a + 3) (wordByte v 3)

/-- The offsets whose value is defined while BUSY = 1: STATUS and CAPS (R16, R94). -/
def readableWhileBusy (a : Nat) : Bool := decide (a / 4 = 0x00 / 4) || decide (a / 4 = 0x34 / 4)

/-- A host read of one access: the value v when it is defined, the next free value otherwise (R94, U7). The record is
the host's; of the block no read changes anything (R35). -/
def State.hostRead (s : State) (off : Offset) (v : ReadValue) (free : Word → ReadValue) : State :=
  if s.status.busy && !readableWhileBusy off.toNat then
    { s.record off (free (Config.freeRead s.draws)) with draws := s.draws + 1 }
  else s.record off v

/-- One host access (R32, R33, R93, R94). A write while BUSY = 1 is HOST_HAZARD whatever its form. -/
def hostAccess (a : Access) (s : State) : Host.Outcome State Fault Refusal :=
  match a with
  | .r8 off => .next (s.hostRead off (.byte (s.windowByte off.toNat)) fun w => .byte (w.extractLsb' 0 8))
  | .r32 off =>
    if off.toNat % 4 = 0 then .next (s.hostRead off (.word (s.windowWord off.toNat)) .word) else .fault .access
  | .w8 off b =>
    if s.status.busy then .fault .hostHazard
    else if off.toNat < 0x40 then .fault .access
    else .next (s.hostStore off.toNat b)
  | .w32 off v =>
    if s.status.busy then .fault .hostHazard
    else if off.toNat % 4 = 0 then .next (s.hostStoreWord off.toNat v)
    else .fault .access
  | .readOther _ _ => .fault .access
  | .writeOther _ _ => if s.status.busy then .fault .hostHazard else .fault .access

end Sys2Proof.Machine
end

