-- ==== Sys2Proof/Machine/HostProgram.lean ====
section
/-! DEFINITION. The host's program notation: the operations of 30_encoding.md R46 and the pseudo-operations of R47 as
lists of operations, and the host's turn. -/

namespace Sys2Proof.Machine

/-- `W8 off, b` as an operation. An offset above 0xFFFF has no meaning in the 16-bit window of R30; the model takes it
mod 2^16 (DESIGN CHOICE, log entry 21). -/
def opW8 (off : Nat) (b : Byte) : HostOp := .access (.w8 (BitVec.ofNat 16 off) b)

/-- `W32 off, v` as an operation; the offset mod 2^16, as in opW8 (log entry 21). -/
def opW32 (off : Nat) (v : Word) : HostOp := .access (.w32 (BitVec.ofNat 16 off) v)

/-- `R8 off` as an operation; the offset mod 2^16, as in opW8 (DESIGN CHOICE, log entry 21). -/
def opR8 (off : Nat) : HostOp := .access (.r8 (BitVec.ofNat 16 off))

/-- `R32 off` as an operation; the offset mod 2^16, as in opW8 (log entry 21). -/
def opR32 (off : Nat) : HostOp := .access (.r32 (BitVec.ofNat 16 off))

/-- `CMD MNEMONIC`: `W32 0x0004, OP` (R46). -/
def opCmd (i : Instr) : HostOp := opW32 0x0004 (encode i)

/-- `W8 base+i, byte i` for each byte of a text (R47). Offsets past 0xFFFF, which the spec gives no meaning, come round to
0x0000 (DESIGN CHOICE, log entry 21). -/
def loadBytes : Nat → List Byte → List HostOp
  | _, [] => []
  | a, b :: bs => opW8 a b :: loadBytes (a + 1) bs

/-- `LDSECRET "text"` (R47). A text of 2^32 bytes or more has no length in 32 bits; the model writes it mod 2^32 (log
entry 21). -/
def ldSecret (text : List Byte) : List HostOp :=
  loadBytes secretBase text ++ [opW32 0x0020 (BitVec.ofNat 32 text.length)]

/-- `LDKEY hh hh ...` (R47); the length written mod 2^32, as in ldSecret (log entry 21). -/
def ldKey (key : List Byte) : List HostOp := loadBytes keyBase key ++ [opW32 0x0024 (BitVec.ofNat 32 key.length)]

/-- `LDTIME t` (R47). -/
def ldTime (t : Wide) : List HostOp := [opW32 0x0010 (t.extractLsb' 32 32), opW32 0x0014 (t.extractLsb' 0 32)]

/-- `LDCTR c` (R47). -/
def ldCtr (c : Wide) : List HostOp := [opW32 0x0018 (c.extractLsb' 32 32), opW32 0x001C (c.extractLsb' 0 32)]

/-- `SETDIG d` (R47). -/
def setDig (d : Word) : List HostOp := [opW32 0x000C d]

/-- `RDMAC` (R47). -/
def rdMac : List HostOp := (List.range 5).map fun k => opR32 (0x0060 + 4 * k)

/-- The byte reads of `RDCODE` for a length len (R47). CODE_LEN holds no length above 15; a read of it while BUSY = 1 may
return any length (R94), and the offsets of one above 0xFFC0 pass 0xFFFF, where the spec is silent: they come round to
0x0000 (DESIGN CHOICE, log entry 21). -/
def codeReads (len : Nat) : List HostOp := (List.range len).map fun i => opR8 (0x0040 + i)

/-- The encoding of an access: offset, width in bits, and the value of a write (R46). -/
def accessEncoding : Access → Nat × Nat × Option Nat
  | .r8 off => (off.toNat, 8, none)
  | .r32 off => (off.toNat, 32, none)
  | .w8 off b => (off.toNat, 8, some b.toNat)
  | .w32 off v => (off.toNat, 32, some v.toNat)
  | .readOther off bits => (off.toNat, bits, none)
  | .writeOther off bits => (off.toNat, bits, none)

/-- The value of the host's latest read, as a number. -/
def State.lastRead (s : State) : Nat :=
  match s.hostReads with
  | [] => 0
  | r :: _ =>
    match r.value with
    | .byte b => b.toNat
    | .word w => w.toNat

/-- The operations of R47 that depend on a value read: after the read, `WAIT` comes again while bit 0 is 1, and `RDCODE`
goes on to its byte reads. -/
def afterRead (op : HostOp) (s : State) : State :=
  match op with
  | .access _ => s
  | .wait => if s.lastRead % 2 = 1 then { s with program := .wait :: s.program } else s
  | .rdCode => { s with program := codeReads s.lastRead ++ s.program }

/-- The access an operation makes in one host step (R46, R47). -/
def accessOf : HostOp → Access
  | .access a => a
  | .wait => .r32 0x0000#16
  | .rdCode => .r32 0x0030#16

/-- One operation of the host's program. -/
def hostOp (op : HostOp) (s : State) : Host.Outcome State Fault Refusal :=
  match hostAccess (accessOf op) s with
  | .next t => .next (afterRead op t)
  | .fault r => .fault r
  | .refused r => .refused r

/-- The host's turn: its next operation, if it has one (R13, R37). -/
def hostTurn (s : State) : Host.Outcome State Fault Refusal :=
  match s.program with
  | [] => .next s
  | op :: rest => hostOp op { s with program := rest }

end Sys2Proof.Machine
end

