-- ==== Sys2Proof/Machine/Engine.lean ====
section
/-! DEFINITION. The engine's turn (10_state.md R13; 60_exceptions.md R81), and a command word placed where the engine
fetches it. -/

namespace Sys2Proof.Machine

/-- The completion of the pending word: the command it decodes to, or ILLEGAL_CMD, which clears no VALID bit
(R44, R81, R82). -/
def completePending (s : State) : Host.Outcome State Fault Refusal :=
  match decode s.pending with
  | .ok i => exec i s
  | .error _ => .next (s.fail .illegalCmd id)

/-- The engine's turn: the completion step, enabled exactly when BUSY = 1 (R13, R81). -/
def engineTurn (s : State) : Host.Outcome State Fault Refusal :=
  if s.status.busy then completePending s else .next s

/-- The schedule under which the engine moves next in a busy block. -/
def engineNext : List Turn → List Turn
  | [] => []
  | ts => .engine :: ts

/-- The state right after the host has written the command word w to CMD, with the engine's turn next: PENDING holds the
word the engine's completion step reads (R18, R19). -/
def State.loadCommand (s : State) (w : Word) : State := { s.issue w with schedule := engineNext s.schedule }

end Sys2Proof.Machine
end

