-- ==== Sys2Proof/Machine/Step.lean ====
section
/-! DEFINITION. One step of the machine: the next turn of the schedule. Where the schedule names no turn, the engine
moves while BUSY = 1 and the host moves otherwise, so a pending command always completes (10_state.md R13;
70_reset_and_hazards.md R91, R95). -/

namespace Sys2Proof.Machine

def step (s : State) : Host.Outcome State Fault Refusal :=
  match s.schedule with
  | [] => if s.status.busy then engineTurn s else hostTurn s
  | .engine :: ts => engineTurn { s with schedule := ts }
  | .host :: ts => hostTurn { s with schedule := ts }
  | .reset :: ts => .next { s with schedule := ts }.resetBlock

/-- s with the command word w issued, so that the very next step is its completion: the engine reads PENDING (R18, R81). -/
def State.withFetchWord (s : State) (nbits w : Nat) : State := s.loadCommand (BitVec.ofNat 32 (w % 2 ^ nbits))

end Sys2Proof.Machine
end

