-- ==== Sys2Proof/Safety.lean ====
section
/-! DEFINITION. The words the statements use: what a safe run is, the invariant of the block, whose turn it is, the
operands and results of each command (30_encoding.md R45), the map of 20_memory.md R30, and the plain arithmetic the
rules describe. -/

namespace Sys2Proof.Machine

/-- k steps with no fault and no refusal: the host has kept its contract (20_memory.md R32, 70_reset_and_hazards.md R93). -/
def SafeRun (k : Nat) (s : State) : Prop := ∃ t, Host.Core.run core k s = .next t

/-- The engine moves next, and ts is the schedule after its turn. -/
def EngineMovesNext (s : State) (ts : List Turn) : Prop := s.schedule = .engine :: ts ∨ (s.schedule = [] ∧ ts = [])

/-- The host moves next, and ts is the schedule after its turn. -/
def HostMovesNext (s : State) (ts : List Turn) : Prop :=
  s.schedule = .host :: ts ∨ (s.schedule = [] ∧ ts = [] ∧ s.status.busy = false)

/-- What STATUS can hold: never BUSY with DONE, ERR exactly with a code, ERR only after a completion, and no code above
0x06 (10_state.md R15, 60_exceptions.md R80). -/
structure Status.Ok (st : Status) : Prop where
  busy_not_done : ¬(st.busy = true ∧ st.done = true)
  err_iff_code : st.err = true ↔ st.errCode ≠ 0#8
  err_done : st.err = true → st.done = true
  code_known : st.errCode.toNat ≤ 6

/-- MSG and MAC hold the counter bytes and the MAC of one HMAC computation (10_state.md R20). -/
def State.HoldsMac (s : State) (key : List Byte) (c : Wide) : Prop :=
  s.msgBytes = beBytes 8 c.toNat ∧ s.macBytes = hmacSha1 key (beBytes 8 c.toNat)

/-- TRUNC, CODE_VALUE, CODE_LEN and CODE hold the results of one truncation of mac to d digits (10_state.md R20;
43_truncation.md R72 to R75). -/
def State.HoldsCode (s : State) (mac : List Byte) (d : Nat) : Prop :=
  s.trunc.toNat = beValue ((mac.drop ((mac.getD 19 0#8).toNat % 16)).take 4) % 2 ^ 31 ∧
    s.codeValue.toNat = s.trunc.toNat % 10 ^ d ∧ s.codeLen.toNat = d ∧
    ∀ i, i < 16 → s.codeBytes.getD i 0#8 =
      if i < d then BitVec.ofNat 8 (0x30 + s.codeValue.toNat / 10 ^ (d - 1 - i) % 10) else 0#8

/-- The invariant of the block. -/
structure State.Inv (s : State) : Prop where
  /-- 1 <= SECRET_MAX <= 4096 (R6). -/
  config_wf : s.config.wf = true
  /-- The cells are in canonical form. -/
  memory_wf : s.mem.wf s.config = true
  status_ok : s.status.Ok
  /-- MAC_VALID = 1 means what R20 says. -/
  mac_valid : s.valid.mac = true → ∃ key c, key.length ≤ s.config.keyMax ∧ s.HoldsMac key c
  /-- CODE_VALID = 1 means what R20 says. -/
  code_valid : s.valid.code = true → ∃ mac d, mac.length = 20 ∧ 1 ≤ d ∧ d ≤ 10 ∧ s.HoldsCode mac d

/-- The digit count d that DIGITS selects (43_truncation.md R71). -/
def State.SelectsDigits (s : State) (d : Nat) : Prop :=
  (s.digits.toNat = 0 ∧ d = 6) ∨ (1 ≤ s.digits.toNat ∧ s.digits.toNat ≤ 10 ∧ d = s.digits.toNat)

/-- The key operands of HMAC_CTR, GEN_HOTP and GEN_TOTP agree (R45). -/
def SameKey (s s' : State) : Prop := s.valid.key = s'.valid.key ∧ s.keyLen = s'.keyLen ∧ s.keyBytes = s'.keyBytes

/-- The operands of a command agree in two states of blocks of one capacity (the column "reads" of R45). -/
def SameOperands (i : Instr) (s s' : State) : Prop :=
  s.config = s'.config ∧
    match i with
    | .decode => s.secretLen = s'.secretLen ∧ s.secretBytes = s'.secretBytes
    | .hmacCtr => SameKey s s' ∧ s.counterHi = s'.counterHi ∧ s.counterLo = s'.counterLo
    | .trunc => s.valid.mac = s'.valid.mac ∧ s.macBytes = s'.macBytes ∧ s.digits = s'.digits
    | .genHotp => SameKey s s' ∧ s.counterHi = s'.counterHi ∧ s.counterLo = s'.counterLo ∧ s.digits = s'.digits
    | .genTotp => SameKey s s' ∧ s.timeHi = s'.timeHi ∧ s.timeLo = s'.timeLo ∧ s.digits = s'.digits

/-- The code results agree. -/
def SameCode (t t' : State) : Prop :=
  t.trunc = t'.trunc ∧ t.codeValue = t'.codeValue ∧ t.codeLen = t'.codeLen ∧ t.codeBytes = t'.codeBytes

/-- The MSG and MAC results agree. -/
def SameMac (t t' : State) : Prop := t.msgBytes = t'.msgBytes ∧ t.macBytes = t'.macBytes

/-- The results of a command agree after it: STATUS and the VALID bits it writes, and, when it succeeded, the columns
"writes on success" of R45. -/
def SameResults (i : Instr) (t t' : State) : Prop :=
  t.status = t'.status ∧
    match i with
    | .decode => t.valid.key = t'.valid.key ∧ (t.status.err = false → t.keyLen = t'.keyLen ∧ t.keyBytes = t'.keyBytes)
    | .hmacCtr => t.valid.mac = t'.valid.mac ∧ (t.status.err = false → SameMac t t')
    | .trunc => t.valid.code = t'.valid.code ∧ (t.status.err = false → SameCode t t')
    | .genHotp =>
      t.valid.mac = t'.valid.mac ∧ t.valid.code = t'.valid.code ∧
        (t.status.err = false → SameMac t t' ∧ SameCode t t')
    | .genTotp =>
      t.valid.mac = t'.valid.mac ∧ t.valid.code = t'.valid.code ∧
        (t.status.err = false →
          SameMac t t' ∧ SameCode t t' ∧ t.counterHi = t'.counterHi ∧ t.counterLo = t'.counterLo)

/-- The error code an outcome reports in STATUS. -/
def reportedCode : Host.Outcome State Fault Refusal → Option Nat
  | .next t => some t.status.errCode.toNat
  | .fault _ => none
  | .refused _ => none

/-- Every CMD write of a host program is followed by WAIT (30_encoding.md R47, 70_reset_and_hazards.md R93, R98). -/
def waitsAfterCmd : List HostOp → Bool
  | [] => true
  | .access (.w32 off _) :: rest =>
    if off = 0x0004#16 then rest.head? == some .wait && waitsAfterCmd rest else waitsAfterCmd rest
  | _ :: rest => waitsAfterCmd rest

/-- The host keeps its contract from here on: its operations have an allowed form, WAIT follows every CMD write, and in a
busy block it waits first (20_memory.md R32, 70_reset_and_hazards.md R93). -/
structure State.HostWaits (s : State) : Prop where
  allowed : ∀ op ∈ s.program, op.wf = true
  waits : waitsAfterCmd s.program = true
  busy_waits : s.status.busy = true → s.program.head? = some .wait

/-- The map of R30 for registers: each offset and the word its register holds, reserved bits 0 (10_state.md R15 to R27). -/
def State.registerValues (s : State) : List (Offset × Word) :=
  [(0x0000#16, s.status.toWord), (0x0004#16, 0#32), (0x0008#16, s.valid.toWord), (0x000C#16, s.digits.setWidth 32),
    (0x0010#16, s.timeHi), (0x0014#16, s.timeLo), (0x0018#16, s.counterHi), (0x001C#16, s.counterLo),
    (0x0020#16, s.secretLen.setWidth 32), (0x0024#16, s.keyLen.setWidth 32), (0x0028#16, s.trunc.setWidth 32),
    (0x002C#16, s.codeValue), (0x0030#16, s.codeLen.setWidth 32),
    (0x0034#16, BitVec.ofNat 16 s.config.keyMax ++ BitVec.ofNat 16 s.config.secretMax)]

/-- n lies in lo..hi, as the map of R30 writes its ranges. -/
def between (lo hi n : Nat) : Prop := lo ≤ n ∧ n ≤ hi

/-- The reserved offsets of R30 and R34. -/
def ReservedOffset (c : Config) (a : Nat) : Prop :=
  between 0x0038 0x003F a ∨ between 0x0058 0x005F a ∨ between 0x0074 0x0FFF a ∨
    between (0x1000 + c.secretMax) 0x1FFF a ∨ between (0x2000 + c.keyMax) 0x2FFF a ∨ between 0x3000 0xFFFF a

/-- The offsets of the read-only registers and buffers of R30. -/
def ReadOnlyOffset (a : Nat) : Prop :=
  between 0x0000 0x0003 a ∨ between 0x0008 0x000B a ∨ between 0x0028 0x0037 a ∨ between 0x0040 0x004F a ∨
    between 0x0050 0x0057 a ∨ between 0x0060 0x0073 a

/-- The offsets of SECRET and KEY bytes below capacity, which the host may write (R30, R34). -/
def WritableOffset (c : Config) (a : Nat) : Prop :=
  between 0x1000 0x1FFF a ∧ a < 0x1000 + c.secretMax ∨ between 0x2000 0x2FFF a ∧ a < 0x2000 + c.keyMax

/-- sum over i of v_i * 32^(m-1-i) (40_secret_decoder.md R53). -/
def base32Sum : List Nat → Nat
  | [] => 0
  | v :: vs => v * 32 ^ vs.length + base32Sum vs

/-- The two hex digits of a byte, upper-case or lower-case. -/
def hexPairOf (upper : Bool) (b : Byte) : List Byte :=
  [b.toNat / 16, b.toNat % 16].map fun n =>
    if n < 10 then BitVec.ofNat 8 (0x30 + n)
    else BitVec.ofNat 8 ((if upper then 0x41 else 0x61) + (n - 10))

/-- A byte sequence rendered as even-length hex (95_test_vectors.md SRC-7). -/
def hexRendering (upper : Bool) (k : List Byte) : List Byte := k.flatMap (hexPairOf upper)

/-- The number a string of ASCII decimal digits writes. -/
def decimalValue (code : List Byte) : Nat := code.foldl (fun acc c => acc * 10 + (c.toNat - 0x30)) 0

end Sys2Proof.Machine
end

