-- ==== Sys2Proof/Certificates/Slice0/Obligations.lean ====
section
/-! DEFINITION. The statements about the block, for the provers. A frame is written as an equation: t with the fields it
may have changed put back is s. Byte frames go through readByte, the model's read of one buffer byte. -/

open Sys2Proof Sys2Proof.Machine

/-! ## Command words -/

/-- 95_test_vectors.md ENC-1 to ENC-10: the five words of the table and five illegal ones. -/
def Obligations.TableWordsDecode : Prop :=
  decode 0x00000001#32 = .ok .decode ∧ decode 0x00000002#32 = .ok .hmacCtr ∧ decode 0x00000003#32 = .ok .trunc ∧
    decode 0x00000004#32 = .ok .genHotp ∧ decode 0x00000005#32 = .ok .genTotp ∧
    decode 0x00000000#32 = .error .unassignedOpcode ∧ decode 0x00000006#32 = .error .unassignedOpcode ∧
    decode 0x000000FF#32 = .error .unassignedOpcode ∧ decode 0x00000101#32 = .error .reservedBits ∧
    decode 0x80000005#32 = .error .reservedBits

/-- 30_encoding.md R43: a word selects an opcode exactly when bits 31:8 are 0 and bits 7:0 are the opcode. -/
def Obligations.DecoderAcceptsExactlyTheOpcodeMap : Prop :=
  ∀ (w : Word) (i : Instr), decode w = .ok i ↔
    w.toNat / 2 ^ 8 = 0 ∧ w.toNat % 2 ^ 8 =
      match i with
      | .decode => 0x01
      | .hmacCtr => 0x02
      | .trunc => 0x03
      | .genHotp => 0x04
      | .genTotp => 0x05

/-- Decode and encode agree for every command and every word, in the table's numbering too: the encoding of a command is
the one word that decodes to it. -/
def Obligations.DecodeAndEncodeAgree : Prop :=
  (∀ (i : Instr) (w : Word), decode w = .ok i ↔ w = encode i) ∧
    (∀ (i : Instr) (n : Nat), n < 2 ^ 32 → (decodeTableWord 32 n = some i ↔ n = (encode i).toNat))

/-- R44: every other word is illegal. It is issued like any command and completes with ILLEGAL_CMD; it writes nothing
but STATUS. -/
def Obligations.IllegalWordCompletesWithIllegalCmd : Prop :=
  ∀ (s : State) (w : Word), (w.toNat / 2 ^ 8 ≠ 0 ∨ w.toNat % 2 ^ 8 = 0 ∨ 6 ≤ w.toNat % 2 ^ 8) →
    (s.status.busy = false →
      ∃ t, hostAccess (.w32 0x0004#16 w) s = .next t ∧ t.pending = w ∧ t.status.busy = true) ∧
    (∀ ts, s.status.busy = true → s.pending = w → EngineMovesNext s ts →
      ∃ t, step s = .next t ∧ t.status.toWord = 0x00000106#32 ∧
        { t with status := s.status, schedule := s.schedule } = s)

/-! ## Turns -/

/-- 60_exceptions.md R81: in a busy block whose engine moves next, a step is the completion of the pending command. -/
def Obligations.StepRunsTheDecodedCommand : Prop :=
  ∀ (s : State) (ts : List Turn) (i : Instr), s.status.busy = true → EngineMovesNext s ts → decode s.pending = .ok i →
    step s = exec i { s with schedule := ts }

/-- A word placed where the engine fetches it is run by the very next step, on the state its CMD write leaves. -/
def Obligations.FetchedWordRunsNext : Prop :=
  ∀ (s : State) (w : Word) (i : Instr), decode w = .ok i → step (s.withFetchWord 32 w.toNat) = exec i (s.issue w)

/-- 20_memory.md R37: the host's turn performs the next access of its program. -/
def Obligations.HostTurnPerformsTheNextAccess : Prop :=
  ∀ (s : State) (ts : List Turn) (a : Access) (rest : List HostOp), HostMovesNext s ts → s.program = .access a :: rest →
    step s = hostAccess a { s with schedule := ts, program := rest }

/-- 30_encoding.md R47: WAIT reads STATUS and comes again while bit 0 of what it read is 1. -/
def Obligations.WaitPollsStatusUntilIdle : Prop :=
  ∀ (s : State) (ts : List Turn) (rest : List HostOp), HostMovesNext s ts → s.program = .wait :: rest →
    step s = .next { s with
      schedule := ts
      program := if s.status.busy then .wait :: rest else rest
      hostReads := { off := 0x0000#16, value := .word s.status.toWord } :: s.hostReads }

/-- 30_encoding.md R47: RDCODE reads CODE_LEN and goes on to read that many bytes of CODE; in a busy block it reads some
length (R94), a free value of the model (log entry 8), and the reads for it are those of codeReads, whose offsets past
0xFFFF are the model's choice (log entry 21). -/
def Obligations.RdCodeReadsTheLengthThenTheDigits : Prop :=
  ∀ (s : State) (ts : List Turn) (rest : List HostOp), HostMovesNext s ts → s.program = .rdCode :: rest →
    (s.status.busy = false →
      step s = .next { s with
        schedule := ts
        program := ((List.range s.codeLen.toNat).map fun i => .access (.r8 (BitVec.ofNat 16 (0x0040 + i)))) ++ rest
        hostReads := { off := 0x0030#16, value := .word (s.codeLen.setWidth 32) } :: s.hostReads }) ∧
    (s.status.busy = true →
      ∃ w : Word, step s = .next { s with
        schedule := ts
        program := codeReads w.toNat ++ rest
        hostReads := { off := 0x0030#16, value := .word w } :: s.hostReads
        draws := s.draws + 1 })

/-- R81, 10_state.md R13, 70_reset_and_hazards.md R95: the completion step is enabled in every busy block, and STATUS says
afterwards success, 0x00000002, or one of the six errors, 0x00000006 | (code << 8). In an idle block the engine has no
step: a turn of its own changes nothing but the schedule (turns are the model's form, log entry 4). -/
def Obligations.PendingCommandCompletes : Prop :=
  (∀ (s : State) (ts : List Turn), s.status.busy = true → EngineMovesNext s ts →
    ∃ t, step s = .next t ∧
      (t.status.toWord = 0x00000002#32 ∨
        ∃ code, 1 ≤ code ∧ code ≤ 6 ∧ t.status.toWord = BitVec.ofNat 32 (6 + 256 * code))) ∧
    ∀ (s : State) (ts : List Turn), s.status.busy = false → s.schedule = .engine :: ts →
      step s = .next { s with schedule := ts }

/-- R95: a busy period is finite under every schedule: within one step more than the schedule has turns, BUSY is 0 or
the host has broken its contract. That the engine moves when the schedule names no turn is the model's (log entry 4). -/
def Obligations.BusyPeriodEnds : Prop :=
  ∀ s : State, s.status.busy = true →
    ∃ k, k ≤ s.schedule.length + 1 ∧
      ((∃ t, Host.Core.run core k s = .next t ∧ t.status.busy = false) ∨
        ∃ f, Host.Core.run core k s = .fault f)

/-- 20_memory.md R38: between issue and completion the host changes nothing a command can read: its turn in a busy block
leaves every register and every cell as it was. -/
def Obligations.HostCannotChangeABusyBlock : Prop :=
  ∀ (s t : State) (ts : List Turn), s.status.busy = true → s.schedule = .host :: ts → step s = .next t →
    { t with
      schedule := s.schedule
      program := s.program
      hostReads := s.hostReads
      draws := s.draws } = s

/-! ## Reset and the invariant -/

/-- 70_reset_and_hazards.md R90, R91: reset at any time, a busy block included, gives every register and every byte of
CODE, MSG and MAC its reset value and keeps CAPS; State.reset has the same values. -/
def Obligations.ResetGivesTheResetValues : Prop :=
  (∀ (s : State) (ts : List Turn), s.schedule = .reset :: ts →
    ∃ t, step s = .next t ∧ (∀ r, r ≠ .caps → t.readReg r = 0#32) ∧ t.pending = 0#32 ∧
      t.readReg .caps = s.readReg .caps ∧ t.codeBytes = zeros 16 ∧ t.msgBytes = zeros 8 ∧ t.macBytes = zeros 20) ∧
    (∀ r, r ≠ .caps → State.reset.readReg r = 0#32) ∧ State.reset.pending = 0#32 ∧
    State.reset.codeBytes = zeros 16 ∧ State.reset.msgBytes = zeros 8 ∧ State.reset.macBytes = zeros 20

/-- R90, 93_implementation_defined.md U8: reset draws the bytes of SECRET and KEY anew, and a host read of one then
returns the drawn byte, whatever the block held before. The form of the draw, an opaque function of a counter that each
reset advances, is the model's (log entry 1). -/
def Obligations.ResetDrawsSecretAndKeyAnew : Prop :=
  ∀ (s : State) (ts : List Turn) (off : Offset), s.schedule = .reset :: ts → s.config.wf = true →
    WritableOffset s.config off.toNat →
    ∃ t, step s = .next t ∧ s.draws < t.draws ∧
      hostAccess (.r8 off) t = .next (t.record off (.byte (Config.freeRamByte s.draws off.toNat)))

/-- The state after reset meets the invariant. -/
def Obligations.ResetStateMeetsTheInvariant : Prop := State.reset.Inv

/-- Every step keeps the invariant: the canonical form of the cells, the shape of STATUS, and what MAC_VALID and
CODE_VALID mean (10_state.md R15, R20; 60_exceptions.md R80). -/
def Obligations.StepKeepsTheInvariant : Prop := ∀ s t : State, s.Inv → step s = .next t → t.Inv

/-- Two canonical cell lists that list the same bytes are the same list. -/
def Obligations.CanonicalCellsAreDetermined : Prop :=
  ∀ (c : Config) (m m' : Memory), m.wf c = true → m'.wf c = true → (∀ a, m.lookup a = m'.lookup a) → m = m'

/-! ## The register window -/

/-- 10_state.md R19: a CMD write in an idle block latches the word in PENDING and sets STATUS for issue; in a busy one
it is a host hazard; CMD reads 0. -/
def Obligations.CmdWriteIssuesACommand : Prop :=
  ∀ (s : State) (w : Word),
    (s.status.busy = false →
      (∃ t, hostAccess (.w32 0x0004#16 w) s = .next t ∧ t.pending = w ∧ t.status.toWord = 0x00000001#32 ∧
        { t with pending := s.pending, status := s.status } = s) ∧
      hostAccess (.r32 0x0004#16) s = .next (s.record 0x0004#16 (.word 0x00000000#32))) ∧
    (s.status.busy = true → hostAccess (.w32 0x0004#16 w) s = .fault .hostHazard)

/-- 10_state.md R26: a KEY_LEN write stores bits 15:0 and sets KEY_VALID, whatever the value. -/
def Obligations.KeyLenWriteSetsKeyValid : Prop :=
  ∀ (s : State) (v : Word), s.status.busy = false →
    ∃ t, hostAccess (.w32 0x0024#16 v) s = .next t ∧ t.keyLen.toNat = v.toNat % 2 ^ 16 ∧
      t.valid = { s.valid with key := true } ∧ { t with keyLen := s.keyLen, valid := s.valid } = s

/-- 10_state.md R21, R22, R23, R25: a write of an operand register changes that register alone, and a host read of it then
returns the value written with its reserved bits 0. -/
def Obligations.OperandRegisterWritesReadBack : Prop :=
  ∀ (s : State) (v : Word), s.status.busy = false →
    (∃ t, hostAccess (.w32 0x000C#16 v) s = .next t ∧ { t with digits := s.digits } = s ∧
      t.readReg .digits = v &&& 0x0000000F#32 ∧
      hostAccess (.r32 0x000C#16) t = .next (t.record 0x000C#16 (.word (v &&& 0x0000000F#32)))) ∧
    (∃ t, hostAccess (.w32 0x0010#16 v) s = .next t ∧ { t with timeHi := s.timeHi } = s ∧ t.readReg .timeHi = v ∧
      hostAccess (.r32 0x0010#16) t = .next (t.record 0x0010#16 (.word v))) ∧
    (∃ t, hostAccess (.w32 0x0014#16 v) s = .next t ∧ { t with timeLo := s.timeLo } = s ∧ t.readReg .timeLo = v ∧
      hostAccess (.r32 0x0014#16) t = .next (t.record 0x0014#16 (.word v))) ∧
    (∃ t, hostAccess (.w32 0x0018#16 v) s = .next t ∧ { t with counterHi := s.counterHi } = s ∧
      t.readReg .counterHi = v ∧ hostAccess (.r32 0x0018#16) t = .next (t.record 0x0018#16 (.word v))) ∧
    (∃ t, hostAccess (.w32 0x001C#16 v) s = .next t ∧ { t with counterLo := s.counterLo } = s ∧
      t.readReg .counterLo = v ∧ hostAccess (.r32 0x001C#16) t = .next (t.record 0x001C#16 (.word v))) ∧
    (∃ t, hostAccess (.w32 0x0020#16 v) s = .next t ∧ { t with secretLen := s.secretLen } = s ∧
      t.readReg .secretLen = v &&& 0x0000FFFF#32 ∧
      hostAccess (.r32 0x0020#16) t = .next (t.record 0x0020#16 (.word (v &&& 0x0000FFFF#32))))

/-- 20_memory.md R33, R34: in an idle block a reserved offset reads 0, and a write to a reserved or read-only offset
changes nothing. (An 8-bit write below 0x0040 is a violation of R32 and stops; see the statement on violations.) -/
def Obligations.ReservedAndReadOnlyOffsets : Prop :=
  ∀ (s : State) (off : Offset), s.config.wf = true → s.status.busy = false →
    (ReservedOffset s.config off.toNat → hostAccess (.r8 off) s = .next (s.record off (.byte 0#8))) ∧
    (ReservedOffset s.config off.toNat ∨ ReadOnlyOffset off.toNat → 0x0040 ≤ off.toNat →
      ∀ b, hostAccess (.w8 off b) s = .next s) ∧
    (off.toNat % 4 = 0 → (∀ k, k < 4 → ReservedOffset s.config (off.toNat + k)) →
      hostAccess (.r32 off) s = .next (s.record off (.word 0#32))) ∧
    (off.toNat % 4 = 0 →
      (∀ k, k < 4 → ReservedOffset s.config (off.toNat + k) ∨ ReadOnlyOffset (off.toNat + k)) →
      ∀ v, hostAccess (.w32 off v) s = .next s)

/-- 70_reset_and_hazards.md R93, 20_memory.md R32: an access stops with HOST_HAZARD exactly when it writes in a busy
block, with ACCESS exactly when its form is not allowed otherwise, and answers a next state in every other case. The
model's readings: HOST_HAZARD comes before ACCESS (log entry 9), an 8-bit write to 0x0038 to 0x003F is ACCESS (entry 10),
and so is a badly formed read while BUSY = 1 (entry 11). -/
def Obligations.HostAccessStopsExactlyOnViolations : Prop :=
  ∀ (a : Access) (s : State),
    (hostAccess a s = .fault .hostHazard ↔ s.status.busy = true ∧ a.isWrite = true) ∧
    (hostAccess a s = .fault .access ↔ ¬(s.status.busy = true ∧ a.isWrite = true) ∧ a.wf = false) ∧
    ((∃ t, hostAccess a s = .next t) ↔ ¬(s.status.busy = true ∧ a.isWrite = true) ∧ a.wf = true)

/-- 20_memory.md R35: no read changes the block; a write other than of CMD and KEY_LEN changes nothing but the register it
addresses, or the SECRET and KEY bytes it addresses; and every write but a CMD write, done twice, is done once. -/
def Obligations.AccessSideEffects : Prop :=
  (∀ (a : Access) (s t : State), a.isWrite = false → hostAccess a s = .next t →
    { t with hostReads := s.hostReads, draws := s.draws } = s ∧ ∃ r, t.hostReads = r :: s.hostReads) ∧
    (∀ (a : Access) (off : Offset) (n : Nat) (s t : State),
      ((∃ b, a = .w8 off b) ∧ n = 1) ∨ ((∃ v, a = .w32 off v) ∧ n = 4) → off ≠ 0x0004#16 → off ≠ 0x0024#16 →
      hostAccess a s = .next t →
        { t with
          digits := if off = 0x000C#16 then s.digits else t.digits
          timeHi := if off = 0x0010#16 then s.timeHi else t.timeHi
          timeLo := if off = 0x0014#16 then s.timeLo else t.timeLo
          counterHi := if off = 0x0018#16 then s.counterHi else t.counterHi
          counterLo := if off = 0x001C#16 then s.counterLo else t.counterLo
          secretLen := if off = 0x0020#16 then s.secretLen else t.secretLen
          mem := if 0x0040 ≤ off.toNat then s.mem else t.mem } = s ∧
        ∀ x, x < off.toNat ∨ off.toNat + n ≤ x ∨ (s.config.wf = true ∧ ¬WritableOffset s.config x) →
          t.readByte x = s.readByte x) ∧
    (∀ (a : Access) (s t : State), s.mem.wf s.config = true → a.isWrite = true → (∀ v, a ≠ .w32 0x0004#16 v) →
      hostAccess a s = .next t → hostAccess a t = .next t)

/-- 20_memory.md R31, R32: an aligned 32-bit read of an idle block returns the big-endian value of what the four 8-bit reads
return, registers and buffers alike: at a register's offset the word the register holds, and from 0x0040 up each buffer
byte as held and each reserved byte as 0. That a word across the capacity of SECRET or KEY is read byte by byte is the
model's reading (log entry 12). -/
def Obligations.WordReadIsFourByteReads : Prop :=
  ∀ (s : State) (off : Offset), s.status.busy = false → off.toNat % 4 = 0 →
    ∃ (w : Word) (b0 b1 b2 b3 : Byte),
      hostAccess (.r32 off) s = .next (s.record off (.word w)) ∧
      hostAccess (.r8 off) s = .next (s.record off (.byte b0)) ∧
      hostAccess (.r8 (off + 1#16)) s = .next (s.record (off + 1#16) (.byte b1)) ∧
      hostAccess (.r8 (off + 2#16)) s = .next (s.record (off + 2#16) (.byte b2)) ∧
      hostAccess (.r8 (off + 3#16)) s = .next (s.record (off + 3#16) (.byte b3)) ∧
      w.toNat = beValue [b0, b1, b2, b3] ∧ (∀ v, (off, v) ∈ s.registerValues → w = v) ∧
      (0x0040 ≤ off.toNat → ∀ k, k < 4 →
        (WritableOffset s.config (off.toNat + k) ∨ ReadOnlyOffset (off.toNat + k) →
          [b0, b1, b2, b3].getD k 0#8 = s.readByte (off.toNat + k)) ∧
        (s.config.wf = true → ReservedOffset s.config (off.toNat + k) → [b0, b1, b2, b3].getD k 0#8 = 0#8))

/-- 20_memory.md R30, 10_state.md R15 to R28: in an idle block a 32-bit read at a register's offset returns the word that
register holds, an 8-bit read at byte i of CODE, MSG or MAC that byte of the results, and an 8-bit read of SECRET or KEY
below capacity the byte held there, which is the byte the commands take as character or key byte. The secret a command
reads has SECRET_LEN bytes and the key KEY_LEN: no byte at or beyond the length register is read (R28). -/
def Obligations.IdleReadsReturnWhatIsHeld : Prop :=
  ∀ s : State, s.status.busy = false →
    (∀ off v, (off, v) ∈ s.registerValues → hostAccess (.r32 off) s = .next (s.record off (.word v))) ∧
    (∀ (off : Offset) (i : Nat),
      (i < 16 → off.toNat = 0x0040 + i →
        hostAccess (.r8 off) s = .next (s.record off (.byte (s.codeBytes.getD i 0#8)))) ∧
      (i < 8 → off.toNat = 0x0050 + i →
        hostAccess (.r8 off) s = .next (s.record off (.byte (s.msgBytes.getD i 0#8)))) ∧
      (i < 20 → off.toNat = 0x0060 + i →
        hostAccess (.r8 off) s = .next (s.record off (.byte (s.macBytes.getD i 0#8)))) ∧
      (i < s.secretLen.toNat → s.secretLen.toNat ≤ s.config.secretMax → off.toNat = 0x1000 + i →
        hostAccess (.r8 off) s = .next (s.record off (.byte (s.secretBytes.getD i 0#8)))) ∧
      (i < s.keyLen.toNat → s.keyLen.toNat ≤ s.config.keyMax → off.toNat = 0x2000 + i →
        hostAccess (.r8 off) s = .next (s.record off (.byte (s.keyBytes.getD i 0#8))))) ∧
    (∀ off : Offset, WritableOffset s.config off.toNat →
      hostAccess (.r8 off) s = .next (s.record off (.byte (s.readByte off.toNat)))) ∧
    s.secretBytes.length = s.secretLen.toNat ∧ s.keyBytes.length = s.keyLen.toNat

/-- 20_memory.md R31, R32: writes of SECRET and KEY bytes below capacity. A 32-bit write stores its four bytes, bits
31:24 first, an 8-bit write its one; every other byte and every register stays. A 32-bit write across the capacity stores
the bytes below it and leaves the reserved ones alone (the model's reading, log entry 12). -/
def Obligations.BufferWritesStoreTheirBytes : Prop :=
  ∀ (s : State) (off : Offset), s.config.wf = true → s.status.busy = false →
    (WritableOffset s.config off.toNat → ∀ b,
      ∃ t, hostAccess (.w8 off b) s = .next t ∧ t.readByte off.toNat = b ∧
        (∀ a, a ≠ off.toNat → t.readByte a = s.readByte a) ∧ { t with mem := s.mem } = s) ∧
    (off.toNat % 4 = 0 → (∀ k, k < 4 → WritableOffset s.config (off.toNat + k)) → ∀ v : Word,
      ∃ t, hostAccess (.w32 off v) s = .next t ∧
        (∀ k, k < 4 → t.readByte (off.toNat + k) = BitVec.ofNat 8 (v.toNat / 256 ^ (3 - k))) ∧
        (∀ a, a < off.toNat ∨ off.toNat + 4 ≤ a → t.readByte a = s.readByte a) ∧ { t with mem := s.mem } = s) ∧
    (off.toNat % 4 = 0 →
      (∀ k, k < 4 → WritableOffset s.config (off.toNat + k) ∨ ReservedOffset s.config (off.toNat + k)) → ∀ v : Word,
      ∃ t, hostAccess (.w32 off v) s = .next t ∧
        (∀ k, k < 4 → WritableOffset s.config (off.toNat + k) →
          t.readByte (off.toNat + k) = BitVec.ofNat 8 (v.toNat / 256 ^ (3 - k))) ∧
        (∀ a, a < off.toNat ∨ off.toNat + 4 ≤ a ∨ ¬WritableOffset s.config a → t.readByte a = s.readByte a) ∧
        { t with mem := s.mem } = s)

/-- 10_state.md R16, 70_reset_and_hazards.md R94: while BUSY = 1 a read of STATUS or CAPS, of the word or of one of its
bytes, returns its value; a read of any other offset returns some value, a free one of the model (log entry 8), and
changes nothing else. -/
def Obligations.ReadsWhileBusy : Prop :=
  ∀ (s : State) (off : Offset), s.status.busy = true →
    hostAccess (.r32 0x0000#16) s = .next (s.record 0x0000#16 (.word s.status.toWord)) ∧
    hostAccess (.r32 0x0034#16) s = .next (s.record 0x0034#16 (.word (s.readReg .caps))) ∧
    (∀ k, k < 4 → off.toNat = 0x0000 + k → hostAccess (.r8 off) s =
      .next (s.record off (.byte (BitVec.ofNat 8 (s.status.toWord.toNat / 256 ^ (3 - k)))))) ∧
    (∀ k, k < 4 → off.toNat = 0x0034 + k → hostAccess (.r8 off) s =
      .next (s.record off (.byte (BitVec.ofNat 8 ((s.readReg .caps).toNat / 256 ^ (3 - k)))))) ∧
    (off.toNat % 4 = 0 → off ≠ 0x0000#16 → off ≠ 0x0034#16 →
      ∃ w, hostAccess (.r32 off) s = .next { s.record off (.word w) with draws := s.draws + 1 }) ∧
    (off.toNat / 4 ≠ 0x00 → off.toNat / 4 ≠ 0x0D →
      ∃ b, hostAccess (.r8 off) s = .next { s.record off (.byte b) with draws := s.draws + 1 })

/-- 10_state.md R24: CAPS holds SECRET_MAX in bits 15:0 and KEY_MAX in bits 31:16, and no step changes it. -/
def Obligations.CapsIsConstant : Prop :=
  (∀ s : State, s.config.wf = true →
    (s.readReg .caps).toNat % 2 ^ 16 = s.config.secretMax ∧ (s.readReg .caps).toNat / 2 ^ 16 = s.config.keyMax) ∧
    (∀ s : State, hostAccess (.r32 0x0034#16) s = .next (s.record 0x0034#16 (.word (s.readReg .caps)))) ∧
    (∀ s t : State, step s = .next t → t.readReg .caps = s.readReg .caps) ∧
    (∀ (s : State) (v : Word), s.status.busy = false → hostAccess (.w32 0x0034#16 v) s = .next s)

/-- R93, 30_encoding.md R47: a host that makes only accesses of an allowed form, puts WAIT after every CMD write and waits
first in a busy block keeps to that by every step, and no step stops; so a run from an idle block never stops the machine,
whatever the schedule and however long. The host as a list of operations is the model's form (log entry 6). -/
def Obligations.HostThatWaitsNeverStopsTheMachine : Prop :=
  (∀ s : State, s.HostWaits → ∃ t, step s = .next t ∧ t.HostWaits) ∧
    ∀ (s : State) (k : Nat), s.status.busy = false → (∀ op ∈ s.program, op.wf = true) →
      waitsAfterCmd s.program = true → SafeRun k s

/-! ## Errors and flags -/

/-- 10_state.md R15, R20: the words a host reads at STATUS and VALID, field by field, every reserved bit 0. -/
def Obligations.FlagWordsHoldTheirFields : Prop :=
  (∀ s : State, hostAccess (.r32 0x0000#16) s = .next (s.record 0x0000#16 (.word s.status.toWord)) ∧
    s.status.toWord.toNat = s.status.busy.toNat + 2 * s.status.done.toNat + 4 * s.status.err.toNat +
      256 * s.status.errCode.toNat) ∧
    (∀ s : State, s.status.busy = false →
      hostAccess (.r32 0x0008#16) s = .next (s.record 0x0008#16 (.word s.valid.toWord)) ∧
      s.valid.toWord.toNat = s.valid.key.toNat + 2 * s.valid.mac.toNat + 4 * s.valid.code.toNat)

/-- 60_exceptions.md R82: a command that completes with an error writes no register and no buffer but STATUS and VALID,
and in VALID clears the bits of the outputs it would have written; ILLEGAL_CMD clears none. -/
def Obligations.FailedCommandWritesOnlyStatusAndValid : Prop :=
  (∀ (i : Instr) (s t : State), exec i s = .next t → t.status.err = true →
    { t with status := s.status, valid := s.valid } = s ∧
      t.valid =
        match i with
        | .decode => { s.valid with key := false }
        | .hmacCtr => { s.valid with mac := false }
        | .trunc => { s.valid with code := false }
        | .genHotp => { s.valid with mac := false, code := false }
        | .genTotp => { s.valid with mac := false, code := false }) ∧
    (∀ s : State, (∀ i, decode s.pending ≠ .ok i) →
      ∃ t, completePending s = .next t ∧ t.status.err = true ∧ { t with status := s.status } = s)

/-- 60_exceptions.md R83: a command reports the first of its checks that fails, in the order of the table. -/
def Obligations.FirstFailingCheckIsReported : Prop :=
  ∀ s : State,
    ((∀ i, decode s.pending ≠ .ok i) → reportedCode (completePending s) = some 0x01) ∧
    (s.config.secretMax < s.secretLen.toNat → reportedCode (exec .decode s) = some 0x02) ∧
    (s.secretLen.toNat ≤ s.config.secretMax → isHex s.secretBytes = false →
      (∃ c ∈ strip s.secretBytes, b32Val c = none) → reportedCode (exec .decode s) = some 0x03) ∧
    (s.secretLen.toNat ≤ s.config.secretMax →
      (isHex s.secretBytes = true ∨ ∀ c ∈ strip s.secretBytes, b32Val c ≠ none) →
      reportedCode (exec .decode s) = some 0x00) ∧
    (s.valid.key = false → reportedCode (exec .hmacCtr s) = some 0x04) ∧
    (s.valid.key = true → s.config.keyMax < s.keyLen.toNat → reportedCode (exec .hmacCtr s) = some 0x02) ∧
    (s.valid.key = true → s.keyLen.toNat ≤ s.config.keyMax → reportedCode (exec .hmacCtr s) = some 0x00) ∧
    (s.valid.mac = false → reportedCode (exec .trunc s) = some 0x06) ∧
    (s.valid.mac = true → 11 ≤ s.digits.toNat → reportedCode (exec .trunc s) = some 0x05) ∧
    (s.valid.mac = true → s.digits.toNat ≤ 10 → reportedCode (exec .trunc s) = some 0x00) ∧
    (∀ i, i = .genHotp ∨ i = .genTotp →
      (s.valid.key = false → reportedCode (exec i s) = some 0x04) ∧
      (s.valid.key = true → s.config.keyMax < s.keyLen.toNat → reportedCode (exec i s) = some 0x02) ∧
      (s.valid.key = true → s.keyLen.toNat ≤ s.config.keyMax → 11 ≤ s.digits.toNat →
        reportedCode (exec i s) = some 0x05) ∧
      (s.valid.key = true → s.keyLen.toNat ≤ s.config.keyMax → s.digits.toNat ≤ 10 →
        reportedCode (exec i s) = some 0x00))

/-- 10_state.md R20: KEY_VALID becomes 1 only by a host write of KEY_LEN or a DECODE that succeeds. -/
def Obligations.KeyValidIsSetOnlyByKeyLenOrDecode : Prop :=
  ∀ s t : State, step s = .next t → s.valid.key = false → t.valid.key = true →
    (s.status.busy = true ∧ (∃ ts, EngineMovesNext s ts) ∧ s.pending = 0x00000001#32 ∧ t.status.err = false) ∨
      (s.status.busy = false ∧ (∃ ts, HostMovesNext s ts) ∧ ∃ v rest, s.program = .access (.w32 0x0024#16 v) :: rest)

/-- 10_state.md R20: the other changes of the VALID bits. MAC_VALID becomes 1 only by HMAC_CTR, GEN_HOTP or GEN_TOTP that
succeeds, CODE_VALID only by TRUNC, GEN_HOTP or GEN_TOTP that succeeds; a bit becomes 0 only by reset or by a command that
fails, of KEY_VALID DECODE, of the other two the same commands. -/
def Obligations.ValidBitsChangeOnlyAsTheTableSays : Prop :=
  ∀ s t : State, step s = .next t →
    (s.valid.mac = false → t.valid.mac = true →
      s.status.busy = true ∧ (∃ ts, EngineMovesNext s ts) ∧ t.status.err = false ∧
        s.pending ∈ [0x00000002#32, 0x00000004#32, 0x00000005#32]) ∧
    (s.valid.code = false → t.valid.code = true →
      s.status.busy = true ∧ (∃ ts, EngineMovesNext s ts) ∧ t.status.err = false ∧
        s.pending ∈ [0x00000003#32, 0x00000004#32, 0x00000005#32]) ∧
    (s.valid.key = true → t.valid.key = false → (∃ ts, s.schedule = .reset :: ts) ∨
      (s.status.busy = true ∧ (∃ ts, EngineMovesNext s ts) ∧ t.status.err = true ∧ s.pending = 0x00000001#32)) ∧
    (s.valid.mac = true → t.valid.mac = false → (∃ ts, s.schedule = .reset :: ts) ∨
      (s.status.busy = true ∧ (∃ ts, EngineMovesNext s ts) ∧ t.status.err = true ∧
        s.pending ∈ [0x00000002#32, 0x00000004#32, 0x00000005#32])) ∧
    (s.valid.code = true → t.valid.code = false → (∃ ts, s.schedule = .reset :: ts) ∨
      (s.status.busy = true ∧ (∃ ts, EngineMovesNext s ts) ∧ t.status.err = true ∧
        s.pending ∈ [0x00000003#32, 0x00000004#32, 0x00000005#32]))

/-- 10_state.md R27, R28: TRUNC, CODE_VALUE, CODE_LEN, CODE, MSG and MAC change only by reset or by the completion,
without error, of HMAC_CTR, TRUNC, GEN_HOTP or GEN_TOTP. -/
def Obligations.ResultsChangeOnlyAtACompletion : Prop :=
  ∀ s t : State, step s = .next t → ¬(SameMac s t ∧ SameCode s t) →
    (∃ ts, s.schedule = .reset :: ts) ∨
      (s.status.busy = true ∧ (∃ ts, EngineMovesNext s ts) ∧ t.status.err = false ∧
        (s.pending = 0x00000002#32 ∨ s.pending = 0x00000003#32 ∨ s.pending = 0x00000004#32 ∨
          s.pending = 0x00000005#32))

/-! ## The Secret Decoder -/

/-- 40_secret_decoder.md R48: the character classes. -/
def Obligations.CharacterClasses : Prop :=
  (∀ n, n < 10 → isHexDigit (BitVec.ofNat 8 (0x30 + n)) = true ∧ hexVal (BitVec.ofNat 8 (0x30 + n)) = n) ∧
    (∀ n, n < 6 → isHexDigit (BitVec.ofNat 8 (0x41 + n)) = true ∧ hexVal (BitVec.ofNat 8 (0x41 + n)) = 10 + n ∧
      isHexDigit (BitVec.ofNat 8 (0x61 + n)) = true ∧ hexVal (BitVec.ofNat 8 (0x61 + n)) = 10 + n) ∧
    (∀ c : Byte, isHexDigit c = true →
      between 0x30 0x39 c.toNat ∨ between 0x41 0x46 c.toNat ∨ between 0x61 0x66 c.toNat) ∧
    (∀ c : Byte, isSpace c = true ↔ c ∈ [0x09#8, 0x0A#8, 0x0B#8, 0x0C#8, 0x0D#8, 0x20#8]) ∧
    (∀ n, n < 26 → b32Val (BitVec.ofNat 8 (0x41 + n)) = some n ∧ b32Val (BitVec.ofNat 8 (0x61 + n)) = some n) ∧
    (∀ n, n < 6 → b32Val (BitVec.ofNat 8 (0x32 + n)) = some (26 + n)) ∧
    (∀ c : Byte, b32Val c ≠ none →
      between 0x41 0x5A c.toNat ∨ between 0x61 0x7A c.toNat ∨ between 0x32 0x37 c.toNat)

/-- R49, R50: a text is hex exactly when it has at least two characters, even length and hex digits only; on the hex path
byte j of the key is the value of the pair of digits j, in input order. -/
def Obligations.HexPathDecodesPairs : Prop :=
  (∀ s : List Byte,
    isHex s = true ↔ 2 ≤ s.length ∧ s.length % 2 = 0 ∧ ∀ c ∈ s, isHexDigit c = true) ∧
    ∀ s : List Byte, 2 ≤ s.length → s.length % 2 = 0 → (∀ c ∈ s, isHexDigit c = true) →
      ∃ k, decodeSecret s = .ok k ∧ k.length = s.length / 2 ∧
        ∀ j, j < k.length →
          (k.getD j 0#8).toNat = hexVal (s.getD (2 * j) 0#8) * 16 + hexVal (s.getD (2 * j + 1) 0#8)

/-- 95_test_vectors.md SRC-7: any non-empty byte sequence rendered as hex, in either case, decodes back to itself. -/
def Obligations.HexRenderingDecodesBack : Prop :=
  ∀ (upper : Bool) (k : List Byte), k ≠ [] → decodeSecret (hexRendering upper k) = .ok k

/-- R49, R52, R53, R54, R55: a text that is not hex and whose stripped characters have the Base32 values vs, in order,
decodes to the shortest big-endian rendering, of at least one byte, of the 5m-bit integer without its trailing (5m mod 8)
bits. -/
def Obligations.Base32PathIsTheShortestRendering : Prop :=
  ∀ (s : List Byte) (vs : List Nat), ¬(2 ≤ s.length ∧ s.length % 2 = 0 ∧ ∀ c ∈ s, isHexDigit c = true) →
    (strip s).map b32Val = vs.map some →
    ∃ k, decodeSecret s = .ok k ∧ beValue k = base32Sum vs / 2 ^ (5 * vs.length % 8) ∧ 1 ≤ k.length ∧
      (k.length = 1 ∨ 256 ^ (k.length - 1) ≤ beValue k)

/-- R49, R52: a text that is not hex fails with BAD_CHAR exactly when a stripped byte has no Base32 value, and it fails with
nothing else. -/
def Obligations.BadCharExactlyOnAnInvalidCharacter : Prop :=
  ∀ s : List Byte, ¬(2 ≤ s.length ∧ s.length % 2 = 0 ∧ ∀ c ∈ s, isHexDigit c = true) →
    (decodeSecret s = .error .badChar ↔ ∃ c ∈ strip s, b32Val c = none) ∧
      ∀ e, decodeSecret s = .error e → e = .badChar

/-- R51: Strip removes every whitespace byte, then the maximal run of '=' at the end of what remains. -/
def Obligations.StripRemovesSpacesAndTrailingPadding : Prop :=
  ∀ s : List Byte, ∃ n, (s.filter fun c => !isSpace c) = strip s ++ List.replicate n 0x3D#8 ∧
    (strip s).getLast? ≠ some 0x3D#8

/-- R56, corner cases: a decoded key has at least one byte and no more than the secret, or one. -/
def Obligations.DecodedKeyFitsTheSecret : Prop :=
  ∀ s k : List Byte, decodeSecret s = .ok k → 1 ≤ k.length ∧ k.length ≤ max 1 s.length

/-- R56: DECODE of a secret the decoder accepts writes KEY, KEY_LEN and KEY_VALID, and nothing else but STATUS. -/
def Obligations.DecodeWritesTheKey : Prop :=
  ∀ (s : State) (k : List Byte), s.config.wf = true → s.secretLen.toNat ≤ s.config.secretMax →
    decodeSecret s.secretBytes = .ok k →
    ∃ t, exec .decode s = .next t ∧ t.keyBytes = k ∧ t.keyLen.toNat = k.length ∧
      t.valid = { s.valid with key := true } ∧ t.status.toWord = 0x00000002#32 ∧
      { t with mem := s.mem, keyLen := s.keyLen, valid := s.valid, status := s.status } = s ∧
      ∀ a, a < 0x2000 ∨ 0x2000 + k.length ≤ a → t.readByte a = s.readByte a

/-! ## Counter and serializer -/

/-- 41_counter_serializer.md R58: TIME is TIME_HI * 2^32 + TIME_LO, and its time step is the exact quotient by 30, which
never sets bits 63:60. -/
def Obligations.TimeStepIsExactDivision : Prop :=
  (∀ s : State, s.time.toNat = s.timeHi.toNat * 2 ^ 32 + s.timeLo.toNat) ∧
    ∀ t : Wide, (timeStep t).toNat = t.toNat / 30 ∧ (timeStep t).toNat ≤ 614891469123651720 ∧
      (timeStep t).toNat < 2 ^ 60

/-- R61: the serialized counter is its eight bytes, big-endian, for every 64-bit counter, and shows no split into
COUNTER_HI and COUNTER_LO. -/
def Obligations.SerializedCounterIsBigEndian : Prop :=
  (∀ c : Wide, serialize c = beBytes 8 c.toNat ∧ beValue (serialize c) = c.toNat) ∧
    ∀ s : State, s.counter.toNat = s.counterHi.toNat * 2 ^ 32 + s.counterLo.toNat ∧
      serialize s.counter = beBytes 4 s.counterHi.toNat ++ beBytes 4 s.counterLo.toNat

/-! ## SHA-1 and HMAC -/

/-- 42_hmac_sha1.md R63: padding with the least number of zeros, the blocks of 64 bytes, and their words. -/
def Obligations.PaddingAndParsing : Prop :=
  (∀ m : List Byte,
    (∃ k, pad m = m ++ [0x80#8] ++ zeros k ++ beBytes 8 (8 * m.length) ∧ (m.length + 1 + k) % 64 = 56 ∧
      ∀ j, j < k → (m.length + 1 + j) % 64 ≠ 56) ∧
    (pad m).length = 64 * ((m.length + 8) / 64 + 1) ∧ (messageBlocks m).length = (m.length + 8) / 64 + 1 ∧
    (∀ j, j < (messageBlocks m).length → (messageBlocks m).getD j [] = ((pad m).drop (64 * j)).take 64)) ∧
    (∀ block : List Byte, block.length = 64 → (blockWords block).length = 16 ∧
      ∀ t, t < 16 → ((blockWords block).getD t 0#32).toNat = beValue ((block.drop (4 * t)).take 4))

/-- R64, R65, R66: the initial hash value, the table of round functions and constants, the message schedule of a block, and
the eighty rounds in order; ROTL is the left rotation of 00_scope.md R9. -/
def Obligations.CompressionFollowsTheRounds : Prop :=
  Chain.initial = ⟨0x67452301#32, 0xEFCDAB89#32, 0x98BADCFE#32, 0x10325476#32, 0xC3D2E1F0#32⟩ ∧
    (∀ (t : Nat) (x y z : Word),
      (t ≤ 19 → roundFunction t x y z = (x &&& y) ^^^ (~~~x &&& z) ∧ roundConstant t = 0x5A827999#32) ∧
      (20 ≤ t → t ≤ 39 → roundFunction t x y z = x ^^^ y ^^^ z ∧ roundConstant t = 0x6ED9EBA1#32) ∧
      (40 ≤ t → t ≤ 59 →
        roundFunction t x y z = (x &&& y) ^^^ (x &&& z) ^^^ (y &&& z) ∧ roundConstant t = 0x8F1BBCDC#32) ∧
      (60 ≤ t → t ≤ 79 → roundFunction t x y z = x ^^^ y ^^^ z ∧ roundConstant t = 0xCA62C1D6#32)) ∧
    (∀ (n : Nat) (x : Word), n < 32 → rotl n x = x.rotateLeft n) ∧
    (∀ block : List Byte, block.length = 64 →
      (messageSchedule block).length = 80 ∧ (messageSchedule block).take 16 = blockWords block ∧
      (∀ t, 16 ≤ t → t < 80 → (messageSchedule block).getD t 0#32 =
        rotl 1 ((messageSchedule block).getD (t - 3) 0#32 ^^^ (messageSchedule block).getD (t - 8) 0#32 ^^^
          (messageSchedule block).getD (t - 14) 0#32 ^^^ (messageSchedule block).getD (t - 16) 0#32))) ∧
    (∀ (h : Chain) (block : List Byte), block.length = 64 → ∃ v : Chain,
      v = (List.range 80).foldl
        (fun (x : Chain) t =>
          { a := rotl 5 x.a + roundFunction t x.b x.c x.d + x.e + roundConstant t + (messageSchedule block).getD t 0#32
            b := x.a
            c := rotl 30 x.b
            d := x.c
            e := x.d }) h ∧
      compress h block = { a := h.a + v.a, b := h.b + v.b, c := h.c + v.c, d := h.d + v.d, e := h.e + v.e })

/-- R67, R68: SHA1 compresses the blocks in order from the initial hash value and answers its five words big-endian; HMAC
is the inner hash of the key block XOR 0x36 before the text, inside the outer hash of the key block XOR 0x5C. Trailing
zero bytes of a key of at most 64 bytes are absorbed, and a longer key acts as its digest. -/
def Obligations.HmacKeyPreparation : Prop :=
  (∀ m : List Byte, ∃ h : Chain, h = (messageBlocks m).foldl compress Chain.initial ∧
    sha1 m = beBytes 4 h.a.toNat ++ beBytes 4 h.b.toNat ++ beBytes 4 h.c.toNat ++ beBytes 4 h.d.toNat ++
      beBytes 4 h.e.toNat ∧ (sha1 m).length = 20) ∧
    (∀ key text k0 : List Byte,
      (key.length ≤ 64 ∧ k0 = key ++ List.replicate (64 - key.length) 0x00#8 ∨
        64 < key.length ∧ k0 = sha1 key ++ List.replicate 44 0x00#8) →
      hmacSha1 key text =
        sha1 (k0.map (fun b => b ^^^ 0x5C#8) ++ sha1 (k0.map (fun b => b ^^^ 0x36#8) ++ text))) ∧
    (∀ (key text : List Byte) (n : Nat), key.length + n ≤ 64 → hmacSha1 (key ++ zeros n) text = hmacSha1 key text) ∧
    (∀ key text : List Byte, 64 < key.length → hmacSha1 key text = hmacSha1 (sha1 key) text) ∧
    (∀ key text : List Byte, (hmacSha1 key text).length = 20)

/-- R70: the compression calls of one HMAC computation over the eight counter bytes. -/
def Obligations.HmacCompressionCalls : Prop :=
  ∀ key text : List Byte, text.length = 8 →
    (key.length ≤ 64 → compressionCalls key text = 4) ∧
    (64 < key.length → compressionCalls key text = 4 + ((key.length + 8) / 64 + 1)) ∧
    (key.length ≤ 4096 → compressionCalls key text ≤ 69)

/-- R69: HMAC_CTR with a valid key writes MSG, MAC and MAC_VALID, and nothing else but STATUS. -/
def Obligations.HmacCtrWritesMsgAndMac : Prop :=
  ∀ s : State, s.valid.key = true → s.keyLen.toNat ≤ s.config.keyMax →
    ∃ t, exec .hmacCtr s = .next t ∧ t.HoldsMac s.keyBytes s.counter ∧ t.valid = { s.valid with mac := true } ∧
      t.status.toWord = 0x00000002#32 ∧ { t with mem := s.mem, valid := s.valid, status := s.status } = s ∧
      ∀ a, a < 0x0050 ∨ 0x0058 ≤ a → a < 0x0060 ∨ 0x0074 ≤ a → t.readByte a = s.readByte a

/-! ## Truncation -/

/-- 43_truncation.md R71: the digit count of a selector. -/
def Obligations.DigitCountOfASelector : Prop :=
  digitCount 0 = .ok 6 ∧ (∀ sel, 1 ≤ sel → sel ≤ 10 → digitCount sel = .ok sel) ∧
    ∀ sel, 11 ≤ sel → sel ≤ 15 → digitCount sel = .error .digits

/-- R72, R73: the offset is the low nibble of the last MAC byte, the four bytes read never leave the first nineteen, and
TRUNC is their big-endian value without bit 31. -/
def Obligations.TruncationReadsTheSelectedBytes : Prop :=
  ∀ mac : List Byte, mac.length = 20 →
    truncOffset mac = (mac.getD 19 0#8).toNat % 16 ∧ truncOffset mac + 4 ≤ 19 ∧
      (truncWord mac).toNat = beValue ((mac.drop (truncOffset mac)).take 4) ∧
      (truncatedValue mac).toNat = beValue ((mac.drop (truncOffset mac)).take 4) % 2 ^ 31

/-- R74, R75: CODE_VALUE is the exact remainder, and CODE is its decimal rendering of exactly d digits, padded with '0'
on the left and filled with 0x00 up to 16 bytes. -/
def Obligations.CodeIsTheDecimalRendering : Prop :=
  ∀ (t : BitVec 31) (d : Nat), 1 ≤ d → d ≤ 10 →
    codeValueOf t d = t.toNat % 10 ^ d ∧ codeValueOf t d < 2 ^ 31 ∧ (d = 10 → codeValueOf t d = t.toNat) ∧
      (codeText (codeValueOf t d) d).length = 16 ∧
      (∀ i, i < d → between 0x30 0x39 ((codeText (codeValueOf t d) d).getD i 0#8).toNat) ∧
      (∀ i, d ≤ i → i < 16 → (codeText (codeValueOf t d) d).getD i 0#8 = 0x00#8) ∧
      decimalValue ((codeText (codeValueOf t d) d).take d) = codeValueOf t d

/-- R76: TRUNC with a valid MAC writes TRUNC, CODE_VALUE, CODE_LEN, CODE and CODE_VALID, and nothing else but STATUS. -/
def Obligations.TruncWritesTheCode : Prop :=
  ∀ (s : State) (d : Nat), s.valid.mac = true → s.SelectsDigits d →
    ∃ t, exec .trunc s = .next t ∧ t.HoldsCode s.macBytes d ∧ t.valid = { s.valid with code := true } ∧
      t.status.toWord = 0x00000002#32 ∧
      { t with
        mem := s.mem
        trunc := s.trunc
        codeValue := s.codeValue
        codeLen := s.codeLen
        valid := s.valid
        status := s.status } = s ∧
      ∀ a, a < 0x0040 ∨ 0x0050 ≤ a → t.readByte a = s.readByte a

/-! ## Code generation -/

/-- 44_code_generation.md R77: GEN_HOTP with a valid key and digit selector writes MSG, MAC, the code registers, CODE,
MAC_VALID and CODE_VALID, and nothing else but STATUS. -/
def Obligations.GenHotpWritesTheChain : Prop :=
  ∀ (s : State) (d : Nat), s.valid.key = true → s.keyLen.toNat ≤ s.config.keyMax → s.SelectsDigits d →
    ∃ t, exec .genHotp s = .next t ∧ t.HoldsMac s.keyBytes s.counter ∧ t.HoldsCode t.macBytes d ∧
      t.valid = { s.valid with mac := true, code := true } ∧ t.status.toWord = 0x00000002#32 ∧
      { t with
        mem := s.mem
        trunc := s.trunc
        codeValue := s.codeValue
        codeLen := s.codeLen
        valid := s.valid
        status := s.status } = s ∧
      ∀ a, a < 0x0040 ∨ 0x0058 ≤ a → a < 0x0060 ∨ 0x0074 ≤ a → t.readByte a = s.readByte a

/-- R78: GEN_TOTP with a valid key and digit selector does what GEN_HOTP does for the time step of TIME, and writes that
time step to COUNTER_HI and COUNTER_LO. -/
def Obligations.GenTotpWritesTheChainAndTheCounter : Prop :=
  ∀ (s : State) (d : Nat), s.valid.key = true → s.keyLen.toNat ≤ s.config.keyMax → s.SelectsDigits d →
    ∃ t, exec .genTotp s = .next t ∧ t.counter.toNat = (s.timeHi.toNat * 2 ^ 32 + s.timeLo.toNat) / 30 ∧
      t.HoldsMac s.keyBytes t.counter ∧ t.HoldsCode t.macBytes d ∧
      t.valid = { s.valid with mac := true, code := true } ∧ t.status.toWord = 0x00000002#32 ∧
      { t with
        mem := s.mem
        counterHi := s.counterHi
        counterLo := s.counterLo
        trunc := s.trunc
        codeValue := s.codeValue
        codeLen := s.codeLen
        valid := s.valid
        status := s.status } = s ∧
      ∀ a, a < 0x0040 ∨ 0x0058 ≤ a → a < 0x0060 ∨ 0x0074 ≤ a → t.readByte a = s.readByte a

/-- R77, corner cases: where it succeeds, GEN_HOTP leaves the very state that HMAC_CTR followed by TRUNC leaves. -/
def Obligations.GenHotpIsHmacCtrThenTrunc : Prop :=
  ∀ (s : State) (d : Nat), s.valid.key = true → s.keyLen.toNat ≤ s.config.keyMax → s.SelectsDigits d →
    ∃ t u, exec .hmacCtr s = .next t ∧ exec .trunc t = .next u ∧ exec .genHotp s = .next u

/-- R78: where it succeeds, GEN_TOTP is GEN_HOTP on the state whose COUNTER is the time step of TIME. -/
def Obligations.GenTotpIsGenHotpAtTheTimeStep : Prop :=
  ∀ (s : State) (d : Nat) (hi lo : Word), s.valid.key = true → s.keyLen.toNat ≤ s.config.keyMax → s.SelectsDigits d →
    hi.toNat * 2 ^ 32 + lo.toNat = (s.timeHi.toNat * 2 ^ 32 + s.timeLo.toNat) / 30 →
    exec .genTotp s = exec .genHotp { s with counterHi := hi, counterLo := lo }

/-- R79: a command's results depend on its operands alone: no other register, no other byte, no history. -/
def Obligations.ResultsDependOnOperandsAlone : Prop :=
  ∀ (i : Instr) (s s' : State), s.config.wf = true → SameOperands i s s' →
    ∃ t t', exec i s = .next t ∧ exec i s' = .next t' ∧ SameResults i t t'

/-- R79: the same command again, with the same operands, leaves the same state. -/
def Obligations.RepeatedCommandLeavesTheSameState : Prop :=
  ∀ (i : Instr) (s t : State), s.config.wf = true → s.mem.wf s.config = true → exec i s = .next t → exec i t = .next t
end

