-- ==== Sys2Proof/Laws/State.lean ====
section
/-! SUPPORT. What each named update of State does to each field: one lemma per field, so that no later proof unfolds an
update. -/

namespace Sys2Proof.Machine

@[simp] theorem State.setValid_config (s : State) (v : Valid) : (s.setValid v).config = s.config := rfl
@[simp] theorem State.setValid_status (s : State) (v : Valid) : (s.setValid v).status = s.status := rfl
@[simp] theorem State.setValid_pending (s : State) (v : Valid) : (s.setValid v).pending = s.pending := rfl
@[simp] theorem State.setValid_valid (s : State) (v : Valid) : (s.setValid v).valid = v := rfl
@[simp] theorem State.setValid_digits (s : State) (v : Valid) : (s.setValid v).digits = s.digits := rfl
@[simp] theorem State.setValid_timeHi (s : State) (v : Valid) : (s.setValid v).timeHi = s.timeHi := rfl
@[simp] theorem State.setValid_timeLo (s : State) (v : Valid) : (s.setValid v).timeLo = s.timeLo := rfl
@[simp] theorem State.setValid_counterHi (s : State) (v : Valid) : (s.setValid v).counterHi = s.counterHi := rfl
@[simp] theorem State.setValid_counterLo (s : State) (v : Valid) : (s.setValid v).counterLo = s.counterLo := rfl
@[simp] theorem State.setValid_secretLen (s : State) (v : Valid) : (s.setValid v).secretLen = s.secretLen := rfl
@[simp] theorem State.setValid_keyLen (s : State) (v : Valid) : (s.setValid v).keyLen = s.keyLen := rfl
@[simp] theorem State.setValid_trunc (s : State) (v : Valid) : (s.setValid v).trunc = s.trunc := rfl
@[simp] theorem State.setValid_codeValue (s : State) (v : Valid) : (s.setValid v).codeValue = s.codeValue := rfl
@[simp] theorem State.setValid_codeLen (s : State) (v : Valid) : (s.setValid v).codeLen = s.codeLen := rfl
@[simp] theorem State.setValid_mem (s : State) (v : Valid) : (s.setValid v).mem = s.mem := rfl
@[simp] theorem State.setValid_ramDraw (s : State) (v : Valid) : (s.setValid v).ramDraw = s.ramDraw := rfl
@[simp] theorem State.setValid_draws (s : State) (v : Valid) : (s.setValid v).draws = s.draws := rfl
@[simp] theorem State.setValid_schedule (s : State) (v : Valid) : (s.setValid v).schedule = s.schedule := rfl
@[simp] theorem State.setValid_program (s : State) (v : Valid) : (s.setValid v).program = s.program := rfl
@[simp] theorem State.setValid_hostReads (s : State) (v : Valid) : (s.setValid v).hostReads = s.hostReads := rfl
@[simp] theorem State.setValid_readByte (s : State) (v : Valid) (a : Nat) : (s.setValid v).readByte a = s.readByte a := rfl

@[simp] theorem State.setKeyLen_config (s : State) (n : BitVec 16) : (s.setKeyLen n).config = s.config := rfl
@[simp] theorem State.setKeyLen_status (s : State) (n : BitVec 16) : (s.setKeyLen n).status = s.status := rfl
@[simp] theorem State.setKeyLen_pending (s : State) (n : BitVec 16) : (s.setKeyLen n).pending = s.pending := rfl
@[simp] theorem State.setKeyLen_valid (s : State) (n : BitVec 16) : (s.setKeyLen n).valid = s.valid := rfl
@[simp] theorem State.setKeyLen_digits (s : State) (n : BitVec 16) : (s.setKeyLen n).digits = s.digits := rfl
@[simp] theorem State.setKeyLen_timeHi (s : State) (n : BitVec 16) : (s.setKeyLen n).timeHi = s.timeHi := rfl
@[simp] theorem State.setKeyLen_timeLo (s : State) (n : BitVec 16) : (s.setKeyLen n).timeLo = s.timeLo := rfl
@[simp] theorem State.setKeyLen_counterHi (s : State) (n : BitVec 16) : (s.setKeyLen n).counterHi = s.counterHi := rfl
@[simp] theorem State.setKeyLen_counterLo (s : State) (n : BitVec 16) : (s.setKeyLen n).counterLo = s.counterLo := rfl
@[simp] theorem State.setKeyLen_secretLen (s : State) (n : BitVec 16) : (s.setKeyLen n).secretLen = s.secretLen := rfl
@[simp] theorem State.setKeyLen_keyLen (s : State) (n : BitVec 16) : (s.setKeyLen n).keyLen = n := rfl
@[simp] theorem State.setKeyLen_trunc (s : State) (n : BitVec 16) : (s.setKeyLen n).trunc = s.trunc := rfl
@[simp] theorem State.setKeyLen_codeValue (s : State) (n : BitVec 16) : (s.setKeyLen n).codeValue = s.codeValue := rfl
@[simp] theorem State.setKeyLen_codeLen (s : State) (n : BitVec 16) : (s.setKeyLen n).codeLen = s.codeLen := rfl
@[simp] theorem State.setKeyLen_mem (s : State) (n : BitVec 16) : (s.setKeyLen n).mem = s.mem := rfl
@[simp] theorem State.setKeyLen_ramDraw (s : State) (n : BitVec 16) : (s.setKeyLen n).ramDraw = s.ramDraw := rfl
@[simp] theorem State.setKeyLen_draws (s : State) (n : BitVec 16) : (s.setKeyLen n).draws = s.draws := rfl
@[simp] theorem State.setKeyLen_schedule (s : State) (n : BitVec 16) : (s.setKeyLen n).schedule = s.schedule := rfl
@[simp] theorem State.setKeyLen_program (s : State) (n : BitVec 16) : (s.setKeyLen n).program = s.program := rfl
@[simp] theorem State.setKeyLen_hostReads (s : State) (n : BitVec 16) : (s.setKeyLen n).hostReads = s.hostReads := rfl
@[simp] theorem State.setKeyLen_readByte (s : State) (n : BitVec 16) (a : Nat) : (s.setKeyLen n).readByte a = s.readByte a := rfl

@[simp] theorem State.setCounter_config (s : State) (c : Wide) : (s.setCounter c).config = s.config := rfl
@[simp] theorem State.setCounter_status (s : State) (c : Wide) : (s.setCounter c).status = s.status := rfl
@[simp] theorem State.setCounter_pending (s : State) (c : Wide) : (s.setCounter c).pending = s.pending := rfl
@[simp] theorem State.setCounter_valid (s : State) (c : Wide) : (s.setCounter c).valid = s.valid := rfl
@[simp] theorem State.setCounter_digits (s : State) (c : Wide) : (s.setCounter c).digits = s.digits := rfl
@[simp] theorem State.setCounter_timeHi (s : State) (c : Wide) : (s.setCounter c).timeHi = s.timeHi := rfl
@[simp] theorem State.setCounter_timeLo (s : State) (c : Wide) : (s.setCounter c).timeLo = s.timeLo := rfl
@[simp] theorem State.setCounter_counterHi (s : State) (c : Wide) : (s.setCounter c).counterHi = c.extractLsb' 32 32 := rfl
@[simp] theorem State.setCounter_counterLo (s : State) (c : Wide) : (s.setCounter c).counterLo = c.extractLsb' 0 32 := rfl
@[simp] theorem State.setCounter_secretLen (s : State) (c : Wide) : (s.setCounter c).secretLen = s.secretLen := rfl
@[simp] theorem State.setCounter_keyLen (s : State) (c : Wide) : (s.setCounter c).keyLen = s.keyLen := rfl
@[simp] theorem State.setCounter_trunc (s : State) (c : Wide) : (s.setCounter c).trunc = s.trunc := rfl
@[simp] theorem State.setCounter_codeValue (s : State) (c : Wide) : (s.setCounter c).codeValue = s.codeValue := rfl
@[simp] theorem State.setCounter_codeLen (s : State) (c : Wide) : (s.setCounter c).codeLen = s.codeLen := rfl
@[simp] theorem State.setCounter_mem (s : State) (c : Wide) : (s.setCounter c).mem = s.mem := rfl
@[simp] theorem State.setCounter_ramDraw (s : State) (c : Wide) : (s.setCounter c).ramDraw = s.ramDraw := rfl
@[simp] theorem State.setCounter_draws (s : State) (c : Wide) : (s.setCounter c).draws = s.draws := rfl
@[simp] theorem State.setCounter_schedule (s : State) (c : Wide) : (s.setCounter c).schedule = s.schedule := rfl
@[simp] theorem State.setCounter_program (s : State) (c : Wide) : (s.setCounter c).program = s.program := rfl
@[simp] theorem State.setCounter_hostReads (s : State) (c : Wide) : (s.setCounter c).hostReads = s.hostReads := rfl
@[simp] theorem State.setCounter_readByte (s : State) (c : Wide) (a : Nat) : (s.setCounter c).readByte a = s.readByte a := rfl

@[simp] theorem State.setCodeRegs_config (s : State) (t : BitVec 31) (v : Word) (d : BitVec 4) : (s.setCodeRegs t v d).config = s.config := rfl
@[simp] theorem State.setCodeRegs_status (s : State) (t : BitVec 31) (v : Word) (d : BitVec 4) : (s.setCodeRegs t v d).status = s.status := rfl
@[simp] theorem State.setCodeRegs_pending (s : State) (t : BitVec 31) (v : Word) (d : BitVec 4) : (s.setCodeRegs t v d).pending = s.pending := rfl
@[simp] theorem State.setCodeRegs_valid (s : State) (t : BitVec 31) (v : Word) (d : BitVec 4) : (s.setCodeRegs t v d).valid = s.valid := rfl
@[simp] theorem State.setCodeRegs_digits (s : State) (t : BitVec 31) (v : Word) (d : BitVec 4) : (s.setCodeRegs t v d).digits = s.digits := rfl
@[simp] theorem State.setCodeRegs_timeHi (s : State) (t : BitVec 31) (v : Word) (d : BitVec 4) : (s.setCodeRegs t v d).timeHi = s.timeHi := rfl
@[simp] theorem State.setCodeRegs_timeLo (s : State) (t : BitVec 31) (v : Word) (d : BitVec 4) : (s.setCodeRegs t v d).timeLo = s.timeLo := rfl
@[simp] theorem State.setCodeRegs_counterHi (s : State) (t : BitVec 31) (v : Word) (d : BitVec 4) : (s.setCodeRegs t v d).counterHi = s.counterHi := rfl
@[simp] theorem State.setCodeRegs_counterLo (s : State) (t : BitVec 31) (v : Word) (d : BitVec 4) : (s.setCodeRegs t v d).counterLo = s.counterLo := rfl
@[simp] theorem State.setCodeRegs_secretLen (s : State) (t : BitVec 31) (v : Word) (d : BitVec 4) : (s.setCodeRegs t v d).secretLen = s.secretLen := rfl
@[simp] theorem State.setCodeRegs_keyLen (s : State) (t : BitVec 31) (v : Word) (d : BitVec 4) : (s.setCodeRegs t v d).keyLen = s.keyLen := rfl
@[simp] theorem State.setCodeRegs_trunc (s : State) (t : BitVec 31) (v : Word) (d : BitVec 4) : (s.setCodeRegs t v d).trunc = t := rfl
@[simp] theorem State.setCodeRegs_codeValue (s : State) (t : BitVec 31) (v : Word) (d : BitVec 4) : (s.setCodeRegs t v d).codeValue = v := rfl
@[simp] theorem State.setCodeRegs_codeLen (s : State) (t : BitVec 31) (v : Word) (d : BitVec 4) : (s.setCodeRegs t v d).codeLen = d := rfl
@[simp] theorem State.setCodeRegs_mem (s : State) (t : BitVec 31) (v : Word) (d : BitVec 4) : (s.setCodeRegs t v d).mem = s.mem := rfl
@[simp] theorem State.setCodeRegs_ramDraw (s : State) (t : BitVec 31) (v : Word) (d : BitVec 4) : (s.setCodeRegs t v d).ramDraw = s.ramDraw := rfl
@[simp] theorem State.setCodeRegs_draws (s : State) (t : BitVec 31) (v : Word) (d : BitVec 4) : (s.setCodeRegs t v d).draws = s.draws := rfl
@[simp] theorem State.setCodeRegs_schedule (s : State) (t : BitVec 31) (v : Word) (d : BitVec 4) : (s.setCodeRegs t v d).schedule = s.schedule := rfl
@[simp] theorem State.setCodeRegs_program (s : State) (t : BitVec 31) (v : Word) (d : BitVec 4) : (s.setCodeRegs t v d).program = s.program := rfl
@[simp] theorem State.setCodeRegs_hostReads (s : State) (t : BitVec 31) (v : Word) (d : BitVec 4) : (s.setCodeRegs t v d).hostReads = s.hostReads := rfl
@[simp] theorem State.setCodeRegs_readByte (s : State) (t : BitVec 31) (v : Word) (d : BitVec 4) (a : Nat) : (s.setCodeRegs t v d).readByte a = s.readByte a := rfl

@[simp] theorem State.issue_config (s : State) (w : Word) : (s.issue w).config = s.config := rfl
@[simp] theorem State.issue_status (s : State) (w : Word) : (s.issue w).status = Status.issued := rfl
@[simp] theorem State.issue_pending (s : State) (w : Word) : (s.issue w).pending = w := rfl
@[simp] theorem State.issue_valid (s : State) (w : Word) : (s.issue w).valid = s.valid := rfl
@[simp] theorem State.issue_digits (s : State) (w : Word) : (s.issue w).digits = s.digits := rfl
@[simp] theorem State.issue_timeHi (s : State) (w : Word) : (s.issue w).timeHi = s.timeHi := rfl
@[simp] theorem State.issue_timeLo (s : State) (w : Word) : (s.issue w).timeLo = s.timeLo := rfl
@[simp] theorem State.issue_counterHi (s : State) (w : Word) : (s.issue w).counterHi = s.counterHi := rfl
@[simp] theorem State.issue_counterLo (s : State) (w : Word) : (s.issue w).counterLo = s.counterLo := rfl
@[simp] theorem State.issue_secretLen (s : State) (w : Word) : (s.issue w).secretLen = s.secretLen := rfl
@[simp] theorem State.issue_keyLen (s : State) (w : Word) : (s.issue w).keyLen = s.keyLen := rfl
@[simp] theorem State.issue_trunc (s : State) (w : Word) : (s.issue w).trunc = s.trunc := rfl
@[simp] theorem State.issue_codeValue (s : State) (w : Word) : (s.issue w).codeValue = s.codeValue := rfl
@[simp] theorem State.issue_codeLen (s : State) (w : Word) : (s.issue w).codeLen = s.codeLen := rfl
@[simp] theorem State.issue_mem (s : State) (w : Word) : (s.issue w).mem = s.mem := rfl
@[simp] theorem State.issue_ramDraw (s : State) (w : Word) : (s.issue w).ramDraw = s.ramDraw := rfl
@[simp] theorem State.issue_draws (s : State) (w : Word) : (s.issue w).draws = s.draws := rfl
@[simp] theorem State.issue_schedule (s : State) (w : Word) : (s.issue w).schedule = s.schedule := rfl
@[simp] theorem State.issue_program (s : State) (w : Word) : (s.issue w).program = s.program := rfl
@[simp] theorem State.issue_hostReads (s : State) (w : Word) : (s.issue w).hostReads = s.hostReads := rfl
@[simp] theorem State.issue_readByte (s : State) (w : Word) (a : Nat) : (s.issue w).readByte a = s.readByte a := rfl

@[simp] theorem State.succeed_config (s : State) : (s.succeed).config = s.config := rfl
@[simp] theorem State.succeed_status (s : State) : (s.succeed).status = Status.succeeded := rfl
@[simp] theorem State.succeed_pending (s : State) : (s.succeed).pending = s.pending := rfl
@[simp] theorem State.succeed_valid (s : State) : (s.succeed).valid = s.valid := rfl
@[simp] theorem State.succeed_digits (s : State) : (s.succeed).digits = s.digits := rfl
@[simp] theorem State.succeed_timeHi (s : State) : (s.succeed).timeHi = s.timeHi := rfl
@[simp] theorem State.succeed_timeLo (s : State) : (s.succeed).timeLo = s.timeLo := rfl
@[simp] theorem State.succeed_counterHi (s : State) : (s.succeed).counterHi = s.counterHi := rfl
@[simp] theorem State.succeed_counterLo (s : State) : (s.succeed).counterLo = s.counterLo := rfl
@[simp] theorem State.succeed_secretLen (s : State) : (s.succeed).secretLen = s.secretLen := rfl
@[simp] theorem State.succeed_keyLen (s : State) : (s.succeed).keyLen = s.keyLen := rfl
@[simp] theorem State.succeed_trunc (s : State) : (s.succeed).trunc = s.trunc := rfl
@[simp] theorem State.succeed_codeValue (s : State) : (s.succeed).codeValue = s.codeValue := rfl
@[simp] theorem State.succeed_codeLen (s : State) : (s.succeed).codeLen = s.codeLen := rfl
@[simp] theorem State.succeed_mem (s : State) : (s.succeed).mem = s.mem := rfl
@[simp] theorem State.succeed_ramDraw (s : State) : (s.succeed).ramDraw = s.ramDraw := rfl
@[simp] theorem State.succeed_draws (s : State) : (s.succeed).draws = s.draws := rfl
@[simp] theorem State.succeed_schedule (s : State) : (s.succeed).schedule = s.schedule := rfl
@[simp] theorem State.succeed_program (s : State) : (s.succeed).program = s.program := rfl
@[simp] theorem State.succeed_hostReads (s : State) : (s.succeed).hostReads = s.hostReads := rfl
@[simp] theorem State.succeed_readByte (s : State) (a : Nat) : (s.succeed).readByte a = s.readByte a := rfl

@[simp] theorem State.fail_config (s : State) (e : CmdError) (clear : Valid → Valid) : (s.fail e clear).config = s.config := rfl
@[simp] theorem State.fail_status (s : State) (e : CmdError) (clear : Valid → Valid) : (s.fail e clear).status = Status.failed e := rfl
@[simp] theorem State.fail_pending (s : State) (e : CmdError) (clear : Valid → Valid) : (s.fail e clear).pending = s.pending := rfl
@[simp] theorem State.fail_valid (s : State) (e : CmdError) (clear : Valid → Valid) : (s.fail e clear).valid = clear s.valid := rfl
@[simp] theorem State.fail_digits (s : State) (e : CmdError) (clear : Valid → Valid) : (s.fail e clear).digits = s.digits := rfl
@[simp] theorem State.fail_timeHi (s : State) (e : CmdError) (clear : Valid → Valid) : (s.fail e clear).timeHi = s.timeHi := rfl
@[simp] theorem State.fail_timeLo (s : State) (e : CmdError) (clear : Valid → Valid) : (s.fail e clear).timeLo = s.timeLo := rfl
@[simp] theorem State.fail_counterHi (s : State) (e : CmdError) (clear : Valid → Valid) : (s.fail e clear).counterHi = s.counterHi := rfl
@[simp] theorem State.fail_counterLo (s : State) (e : CmdError) (clear : Valid → Valid) : (s.fail e clear).counterLo = s.counterLo := rfl
@[simp] theorem State.fail_secretLen (s : State) (e : CmdError) (clear : Valid → Valid) : (s.fail e clear).secretLen = s.secretLen := rfl
@[simp] theorem State.fail_keyLen (s : State) (e : CmdError) (clear : Valid → Valid) : (s.fail e clear).keyLen = s.keyLen := rfl
@[simp] theorem State.fail_trunc (s : State) (e : CmdError) (clear : Valid → Valid) : (s.fail e clear).trunc = s.trunc := rfl
@[simp] theorem State.fail_codeValue (s : State) (e : CmdError) (clear : Valid → Valid) : (s.fail e clear).codeValue = s.codeValue := rfl
@[simp] theorem State.fail_codeLen (s : State) (e : CmdError) (clear : Valid → Valid) : (s.fail e clear).codeLen = s.codeLen := rfl
@[simp] theorem State.fail_mem (s : State) (e : CmdError) (clear : Valid → Valid) : (s.fail e clear).mem = s.mem := rfl
@[simp] theorem State.fail_ramDraw (s : State) (e : CmdError) (clear : Valid → Valid) : (s.fail e clear).ramDraw = s.ramDraw := rfl
@[simp] theorem State.fail_draws (s : State) (e : CmdError) (clear : Valid → Valid) : (s.fail e clear).draws = s.draws := rfl
@[simp] theorem State.fail_schedule (s : State) (e : CmdError) (clear : Valid → Valid) : (s.fail e clear).schedule = s.schedule := rfl
@[simp] theorem State.fail_program (s : State) (e : CmdError) (clear : Valid → Valid) : (s.fail e clear).program = s.program := rfl
@[simp] theorem State.fail_hostReads (s : State) (e : CmdError) (clear : Valid → Valid) : (s.fail e clear).hostReads = s.hostReads := rfl
@[simp] theorem State.fail_readByte (s : State) (e : CmdError) (clear : Valid → Valid) (a : Nat) : (s.fail e clear).readByte a = s.readByte a := rfl

@[simp] theorem State.record_config (s : State) (off : Offset) (v : ReadValue) : (s.record off v).config = s.config := rfl
@[simp] theorem State.record_status (s : State) (off : Offset) (v : ReadValue) : (s.record off v).status = s.status := rfl
@[simp] theorem State.record_pending (s : State) (off : Offset) (v : ReadValue) : (s.record off v).pending = s.pending := rfl
@[simp] theorem State.record_valid (s : State) (off : Offset) (v : ReadValue) : (s.record off v).valid = s.valid := rfl
@[simp] theorem State.record_digits (s : State) (off : Offset) (v : ReadValue) : (s.record off v).digits = s.digits := rfl
@[simp] theorem State.record_timeHi (s : State) (off : Offset) (v : ReadValue) : (s.record off v).timeHi = s.timeHi := rfl
@[simp] theorem State.record_timeLo (s : State) (off : Offset) (v : ReadValue) : (s.record off v).timeLo = s.timeLo := rfl
@[simp] theorem State.record_counterHi (s : State) (off : Offset) (v : ReadValue) : (s.record off v).counterHi = s.counterHi := rfl
@[simp] theorem State.record_counterLo (s : State) (off : Offset) (v : ReadValue) : (s.record off v).counterLo = s.counterLo := rfl
@[simp] theorem State.record_secretLen (s : State) (off : Offset) (v : ReadValue) : (s.record off v).secretLen = s.secretLen := rfl
@[simp] theorem State.record_keyLen (s : State) (off : Offset) (v : ReadValue) : (s.record off v).keyLen = s.keyLen := rfl
@[simp] theorem State.record_trunc (s : State) (off : Offset) (v : ReadValue) : (s.record off v).trunc = s.trunc := rfl
@[simp] theorem State.record_codeValue (s : State) (off : Offset) (v : ReadValue) : (s.record off v).codeValue = s.codeValue := rfl
@[simp] theorem State.record_codeLen (s : State) (off : Offset) (v : ReadValue) : (s.record off v).codeLen = s.codeLen := rfl
@[simp] theorem State.record_mem (s : State) (off : Offset) (v : ReadValue) : (s.record off v).mem = s.mem := rfl
@[simp] theorem State.record_ramDraw (s : State) (off : Offset) (v : ReadValue) : (s.record off v).ramDraw = s.ramDraw := rfl
@[simp] theorem State.record_draws (s : State) (off : Offset) (v : ReadValue) : (s.record off v).draws = s.draws := rfl
@[simp] theorem State.record_schedule (s : State) (off : Offset) (v : ReadValue) : (s.record off v).schedule = s.schedule := rfl
@[simp] theorem State.record_program (s : State) (off : Offset) (v : ReadValue) : (s.record off v).program = s.program := rfl
@[simp] theorem State.record_hostReads (s : State) (off : Offset) (v : ReadValue) : (s.record off v).hostReads = { off := off, value := v } :: s.hostReads := rfl
@[simp] theorem State.record_readByte (s : State) (off : Offset) (v : ReadValue) (a : Nat) : (s.record off v).readByte a = s.readByte a := rfl

@[simp] theorem State.loadCommand_config (s : State) (w : Word) : (s.loadCommand w).config = s.config := rfl
@[simp] theorem State.loadCommand_status (s : State) (w : Word) : (s.loadCommand w).status = Status.issued := rfl
@[simp] theorem State.loadCommand_pending (s : State) (w : Word) : (s.loadCommand w).pending = w := rfl
@[simp] theorem State.loadCommand_valid (s : State) (w : Word) : (s.loadCommand w).valid = s.valid := rfl
@[simp] theorem State.loadCommand_digits (s : State) (w : Word) : (s.loadCommand w).digits = s.digits := rfl
@[simp] theorem State.loadCommand_timeHi (s : State) (w : Word) : (s.loadCommand w).timeHi = s.timeHi := rfl
@[simp] theorem State.loadCommand_timeLo (s : State) (w : Word) : (s.loadCommand w).timeLo = s.timeLo := rfl
@[simp] theorem State.loadCommand_counterHi (s : State) (w : Word) : (s.loadCommand w).counterHi = s.counterHi := rfl
@[simp] theorem State.loadCommand_counterLo (s : State) (w : Word) : (s.loadCommand w).counterLo = s.counterLo := rfl
@[simp] theorem State.loadCommand_secretLen (s : State) (w : Word) : (s.loadCommand w).secretLen = s.secretLen := rfl
@[simp] theorem State.loadCommand_keyLen (s : State) (w : Word) : (s.loadCommand w).keyLen = s.keyLen := rfl
@[simp] theorem State.loadCommand_trunc (s : State) (w : Word) : (s.loadCommand w).trunc = s.trunc := rfl
@[simp] theorem State.loadCommand_codeValue (s : State) (w : Word) : (s.loadCommand w).codeValue = s.codeValue := rfl
@[simp] theorem State.loadCommand_codeLen (s : State) (w : Word) : (s.loadCommand w).codeLen = s.codeLen := rfl
@[simp] theorem State.loadCommand_mem (s : State) (w : Word) : (s.loadCommand w).mem = s.mem := rfl
@[simp] theorem State.loadCommand_ramDraw (s : State) (w : Word) : (s.loadCommand w).ramDraw = s.ramDraw := rfl
@[simp] theorem State.loadCommand_draws (s : State) (w : Word) : (s.loadCommand w).draws = s.draws := rfl
@[simp] theorem State.loadCommand_schedule (s : State) (w : Word) : (s.loadCommand w).schedule = engineNext s.schedule := rfl
@[simp] theorem State.loadCommand_program (s : State) (w : Word) : (s.loadCommand w).program = s.program := rfl
@[simp] theorem State.loadCommand_hostReads (s : State) (w : Word) : (s.loadCommand w).hostReads = s.hostReads := rfl
@[simp] theorem State.loadCommand_readByte (s : State) (w : Word) (a : Nat) : (s.loadCommand w).readByte a = s.readByte a := rfl

@[simp] theorem State.resetBlock_config (s : State) : (s.resetBlock).config = s.config := rfl
@[simp] theorem State.resetBlock_status (s : State) : (s.resetBlock).status = Status.idle := rfl
@[simp] theorem State.resetBlock_pending (s : State) : (s.resetBlock).pending = 0#32 := rfl
@[simp] theorem State.resetBlock_valid (s : State) : (s.resetBlock).valid = Valid.none := rfl
@[simp] theorem State.resetBlock_digits (s : State) : (s.resetBlock).digits = 0#4 := rfl
@[simp] theorem State.resetBlock_timeHi (s : State) : (s.resetBlock).timeHi = 0#32 := rfl
@[simp] theorem State.resetBlock_timeLo (s : State) : (s.resetBlock).timeLo = 0#32 := rfl
@[simp] theorem State.resetBlock_counterHi (s : State) : (s.resetBlock).counterHi = 0#32 := rfl
@[simp] theorem State.resetBlock_counterLo (s : State) : (s.resetBlock).counterLo = 0#32 := rfl
@[simp] theorem State.resetBlock_secretLen (s : State) : (s.resetBlock).secretLen = 0#16 := rfl
@[simp] theorem State.resetBlock_keyLen (s : State) : (s.resetBlock).keyLen = 0#16 := rfl
@[simp] theorem State.resetBlock_trunc (s : State) : (s.resetBlock).trunc = 0#31 := rfl
@[simp] theorem State.resetBlock_codeValue (s : State) : (s.resetBlock).codeValue = 0#32 := rfl
@[simp] theorem State.resetBlock_codeLen (s : State) : (s.resetBlock).codeLen = 0#4 := rfl
@[simp] theorem State.resetBlock_mem (s : State) : (s.resetBlock).mem = [] := rfl
@[simp] theorem State.resetBlock_ramDraw (s : State) : (s.resetBlock).ramDraw = s.draws := rfl
@[simp] theorem State.resetBlock_draws (s : State) : (s.resetBlock).draws = s.draws + 1 := rfl
@[simp] theorem State.resetBlock_schedule (s : State) : (s.resetBlock).schedule = s.schedule := rfl
@[simp] theorem State.resetBlock_program (s : State) : (s.resetBlock).program = s.program := rfl
@[simp] theorem State.resetBlock_hostReads (s : State) : (s.resetBlock).hostReads = s.hostReads := rfl

@[simp] theorem State.storeByte_config (s : State) (a : Nat) (b : Byte) : (s.storeByte a b).config = s.config := by
  unfold State.storeByte; split <;> rfl
@[simp] theorem State.storeByte_status (s : State) (a : Nat) (b : Byte) : (s.storeByte a b).status = s.status := by
  unfold State.storeByte; split <;> rfl
@[simp] theorem State.storeByte_pending (s : State) (a : Nat) (b : Byte) : (s.storeByte a b).pending = s.pending := by
  unfold State.storeByte; split <;> rfl
@[simp] theorem State.storeByte_valid (s : State) (a : Nat) (b : Byte) : (s.storeByte a b).valid = s.valid := by
  unfold State.storeByte; split <;> rfl
@[simp] theorem State.storeByte_digits (s : State) (a : Nat) (b : Byte) : (s.storeByte a b).digits = s.digits := by
  unfold State.storeByte; split <;> rfl
@[simp] theorem State.storeByte_timeHi (s : State) (a : Nat) (b : Byte) : (s.storeByte a b).timeHi = s.timeHi := by
  unfold State.storeByte; split <;> rfl
@[simp] theorem State.storeByte_timeLo (s : State) (a : Nat) (b : Byte) : (s.storeByte a b).timeLo = s.timeLo := by
  unfold State.storeByte; split <;> rfl
@[simp] theorem State.storeByte_counterHi (s : State) (a : Nat) (b : Byte) : (s.storeByte a b).counterHi = s.counterHi := by
  unfold State.storeByte; split <;> rfl
@[simp] theorem State.storeByte_counterLo (s : State) (a : Nat) (b : Byte) : (s.storeByte a b).counterLo = s.counterLo := by
  unfold State.storeByte; split <;> rfl
@[simp] theorem State.storeByte_secretLen (s : State) (a : Nat) (b : Byte) : (s.storeByte a b).secretLen = s.secretLen := by
  unfold State.storeByte; split <;> rfl
@[simp] theorem State.storeByte_keyLen (s : State) (a : Nat) (b : Byte) : (s.storeByte a b).keyLen = s.keyLen := by
  unfold State.storeByte; split <;> rfl
@[simp] theorem State.storeByte_trunc (s : State) (a : Nat) (b : Byte) : (s.storeByte a b).trunc = s.trunc := by
  unfold State.storeByte; split <;> rfl
@[simp] theorem State.storeByte_codeValue (s : State) (a : Nat) (b : Byte) : (s.storeByte a b).codeValue = s.codeValue := by
  unfold State.storeByte; split <;> rfl
@[simp] theorem State.storeByte_codeLen (s : State) (a : Nat) (b : Byte) : (s.storeByte a b).codeLen = s.codeLen := by
  unfold State.storeByte; split <;> rfl
@[simp] theorem State.storeByte_ramDraw (s : State) (a : Nat) (b : Byte) : (s.storeByte a b).ramDraw = s.ramDraw := by
  unfold State.storeByte; split <;> rfl
@[simp] theorem State.storeByte_draws (s : State) (a : Nat) (b : Byte) : (s.storeByte a b).draws = s.draws := by
  unfold State.storeByte; split <;> rfl
@[simp] theorem State.storeByte_schedule (s : State) (a : Nat) (b : Byte) : (s.storeByte a b).schedule = s.schedule := by
  unfold State.storeByte; split <;> rfl
@[simp] theorem State.storeByte_program (s : State) (a : Nat) (b : Byte) : (s.storeByte a b).program = s.program := by
  unfold State.storeByte; split <;> rfl
@[simp] theorem State.storeByte_hostReads (s : State) (a : Nat) (b : Byte) : (s.storeByte a b).hostReads = s.hostReads := by
  unfold State.storeByte; split <;> rfl

@[simp] theorem State.storeBytes_config (s : State) (a : Nat) (bs : List Byte) : (s.storeBytes a bs).config = s.config := by
  induction bs generalizing s a with
  | nil => rfl
  | cons b bs ih => simp [State.storeBytes, ih]
@[simp] theorem State.storeBytes_status (s : State) (a : Nat) (bs : List Byte) : (s.storeBytes a bs).status = s.status := by
  induction bs generalizing s a with
  | nil => rfl
  | cons b bs ih => simp [State.storeBytes, ih]
@[simp] theorem State.storeBytes_pending (s : State) (a : Nat) (bs : List Byte) : (s.storeBytes a bs).pending = s.pending := by
  induction bs generalizing s a with
  | nil => rfl
  | cons b bs ih => simp [State.storeBytes, ih]
@[simp] theorem State.storeBytes_valid (s : State) (a : Nat) (bs : List Byte) : (s.storeBytes a bs).valid = s.valid := by
  induction bs generalizing s a with
  | nil => rfl
  | cons b bs ih => simp [State.storeBytes, ih]
@[simp] theorem State.storeBytes_digits (s : State) (a : Nat) (bs : List Byte) : (s.storeBytes a bs).digits = s.digits := by
  induction bs generalizing s a with
  | nil => rfl
  | cons b bs ih => simp [State.storeBytes, ih]
@[simp] theorem State.storeBytes_timeHi (s : State) (a : Nat) (bs : List Byte) : (s.storeBytes a bs).timeHi = s.timeHi := by
  induction bs generalizing s a with
  | nil => rfl
  | cons b bs ih => simp [State.storeBytes, ih]
@[simp] theorem State.storeBytes_timeLo (s : State) (a : Nat) (bs : List Byte) : (s.storeBytes a bs).timeLo = s.timeLo := by
  induction bs generalizing s a with
  | nil => rfl
  | cons b bs ih => simp [State.storeBytes, ih]
@[simp] theorem State.storeBytes_counterHi (s : State) (a : Nat) (bs : List Byte) : (s.storeBytes a bs).counterHi = s.counterHi := by
  induction bs generalizing s a with
  | nil => rfl
  | cons b bs ih => simp [State.storeBytes, ih]
@[simp] theorem State.storeBytes_counterLo (s : State) (a : Nat) (bs : List Byte) : (s.storeBytes a bs).counterLo = s.counterLo := by
  induction bs generalizing s a with
  | nil => rfl
  | cons b bs ih => simp [State.storeBytes, ih]
@[simp] theorem State.storeBytes_secretLen (s : State) (a : Nat) (bs : List Byte) : (s.storeBytes a bs).secretLen = s.secretLen := by
  induction bs generalizing s a with
  | nil => rfl
  | cons b bs ih => simp [State.storeBytes, ih]
@[simp] theorem State.storeBytes_keyLen (s : State) (a : Nat) (bs : List Byte) : (s.storeBytes a bs).keyLen = s.keyLen := by
  induction bs generalizing s a with
  | nil => rfl
  | cons b bs ih => simp [State.storeBytes, ih]
@[simp] theorem State.storeBytes_trunc (s : State) (a : Nat) (bs : List Byte) : (s.storeBytes a bs).trunc = s.trunc := by
  induction bs generalizing s a with
  | nil => rfl
  | cons b bs ih => simp [State.storeBytes, ih]
@[simp] theorem State.storeBytes_codeValue (s : State) (a : Nat) (bs : List Byte) : (s.storeBytes a bs).codeValue = s.codeValue := by
  induction bs generalizing s a with
  | nil => rfl
  | cons b bs ih => simp [State.storeBytes, ih]
@[simp] theorem State.storeBytes_codeLen (s : State) (a : Nat) (bs : List Byte) : (s.storeBytes a bs).codeLen = s.codeLen := by
  induction bs generalizing s a with
  | nil => rfl
  | cons b bs ih => simp [State.storeBytes, ih]
@[simp] theorem State.storeBytes_ramDraw (s : State) (a : Nat) (bs : List Byte) : (s.storeBytes a bs).ramDraw = s.ramDraw := by
  induction bs generalizing s a with
  | nil => rfl
  | cons b bs ih => simp [State.storeBytes, ih]
@[simp] theorem State.storeBytes_draws (s : State) (a : Nat) (bs : List Byte) : (s.storeBytes a bs).draws = s.draws := by
  induction bs generalizing s a with
  | nil => rfl
  | cons b bs ih => simp [State.storeBytes, ih]
@[simp] theorem State.storeBytes_schedule (s : State) (a : Nat) (bs : List Byte) : (s.storeBytes a bs).schedule = s.schedule := by
  induction bs generalizing s a with
  | nil => rfl
  | cons b bs ih => simp [State.storeBytes, ih]
@[simp] theorem State.storeBytes_program (s : State) (a : Nat) (bs : List Byte) : (s.storeBytes a bs).program = s.program := by
  induction bs generalizing s a with
  | nil => rfl
  | cons b bs ih => simp [State.storeBytes, ih]
@[simp] theorem State.storeBytes_hostReads (s : State) (a : Nat) (bs : List Byte) : (s.storeBytes a bs).hostReads = s.hostReads := by
  induction bs generalizing s a with
  | nil => rfl
  | cons b bs ih => simp [State.storeBytes, ih]

@[simp] theorem State.hostStore_config (s : State) (a : Nat) (b : Byte) : (s.hostStore a b).config = s.config := by
  unfold State.hostStore; split <;> simp
@[simp] theorem State.hostStore_status (s : State) (a : Nat) (b : Byte) : (s.hostStore a b).status = s.status := by
  unfold State.hostStore; split <;> simp
@[simp] theorem State.hostStore_pending (s : State) (a : Nat) (b : Byte) : (s.hostStore a b).pending = s.pending := by
  unfold State.hostStore; split <;> simp
@[simp] theorem State.hostStore_valid (s : State) (a : Nat) (b : Byte) : (s.hostStore a b).valid = s.valid := by
  unfold State.hostStore; split <;> simp
@[simp] theorem State.hostStore_digits (s : State) (a : Nat) (b : Byte) : (s.hostStore a b).digits = s.digits := by
  unfold State.hostStore; split <;> simp
@[simp] theorem State.hostStore_timeHi (s : State) (a : Nat) (b : Byte) : (s.hostStore a b).timeHi = s.timeHi := by
  unfold State.hostStore; split <;> simp
@[simp] theorem State.hostStore_timeLo (s : State) (a : Nat) (b : Byte) : (s.hostStore a b).timeLo = s.timeLo := by
  unfold State.hostStore; split <;> simp
@[simp] theorem State.hostStore_counterHi (s : State) (a : Nat) (b : Byte) : (s.hostStore a b).counterHi = s.counterHi := by
  unfold State.hostStore; split <;> simp
@[simp] theorem State.hostStore_counterLo (s : State) (a : Nat) (b : Byte) : (s.hostStore a b).counterLo = s.counterLo := by
  unfold State.hostStore; split <;> simp
@[simp] theorem State.hostStore_secretLen (s : State) (a : Nat) (b : Byte) : (s.hostStore a b).secretLen = s.secretLen := by
  unfold State.hostStore; split <;> simp
@[simp] theorem State.hostStore_keyLen (s : State) (a : Nat) (b : Byte) : (s.hostStore a b).keyLen = s.keyLen := by
  unfold State.hostStore; split <;> simp
@[simp] theorem State.hostStore_trunc (s : State) (a : Nat) (b : Byte) : (s.hostStore a b).trunc = s.trunc := by
  unfold State.hostStore; split <;> simp
@[simp] theorem State.hostStore_codeValue (s : State) (a : Nat) (b : Byte) : (s.hostStore a b).codeValue = s.codeValue := by
  unfold State.hostStore; split <;> simp
@[simp] theorem State.hostStore_codeLen (s : State) (a : Nat) (b : Byte) : (s.hostStore a b).codeLen = s.codeLen := by
  unfold State.hostStore; split <;> simp
@[simp] theorem State.hostStore_ramDraw (s : State) (a : Nat) (b : Byte) : (s.hostStore a b).ramDraw = s.ramDraw := by
  unfold State.hostStore; split <;> simp
@[simp] theorem State.hostStore_draws (s : State) (a : Nat) (b : Byte) : (s.hostStore a b).draws = s.draws := by
  unfold State.hostStore; split <;> simp
@[simp] theorem State.hostStore_schedule (s : State) (a : Nat) (b : Byte) : (s.hostStore a b).schedule = s.schedule := by
  unfold State.hostStore; split <;> simp
@[simp] theorem State.hostStore_program (s : State) (a : Nat) (b : Byte) : (s.hostStore a b).program = s.program := by
  unfold State.hostStore; split <;> simp
@[simp] theorem State.hostStore_hostReads (s : State) (a : Nat) (b : Byte) : (s.hostStore a b).hostReads = s.hostReads := by
  unfold State.hostStore; split <;> simp

@[simp] theorem State.writeKey_config (s : State) (k : List Byte) : (s.writeKey k).config = s.config := by
  rw [State.writeKey, State.setValid_config, State.setKeyLen_config, State.storeBytes_config]
@[simp] theorem State.writeKey_status (s : State) (k : List Byte) : (s.writeKey k).status = s.status := by
  rw [State.writeKey, State.setValid_status, State.setKeyLen_status, State.storeBytes_status]
@[simp] theorem State.writeKey_pending (s : State) (k : List Byte) : (s.writeKey k).pending = s.pending := by
  rw [State.writeKey, State.setValid_pending, State.setKeyLen_pending, State.storeBytes_pending]
@[simp] theorem State.writeKey_valid (s : State) (k : List Byte) : (s.writeKey k).valid = s.valid.setKey true := by
  rw [State.writeKey, State.setValid_valid]
@[simp] theorem State.writeKey_digits (s : State) (k : List Byte) : (s.writeKey k).digits = s.digits := by
  rw [State.writeKey, State.setValid_digits, State.setKeyLen_digits, State.storeBytes_digits]
@[simp] theorem State.writeKey_timeHi (s : State) (k : List Byte) : (s.writeKey k).timeHi = s.timeHi := by
  rw [State.writeKey, State.setValid_timeHi, State.setKeyLen_timeHi, State.storeBytes_timeHi]
@[simp] theorem State.writeKey_timeLo (s : State) (k : List Byte) : (s.writeKey k).timeLo = s.timeLo := by
  rw [State.writeKey, State.setValid_timeLo, State.setKeyLen_timeLo, State.storeBytes_timeLo]
@[simp] theorem State.writeKey_counterHi (s : State) (k : List Byte) : (s.writeKey k).counterHi = s.counterHi := by
  rw [State.writeKey, State.setValid_counterHi, State.setKeyLen_counterHi, State.storeBytes_counterHi]
@[simp] theorem State.writeKey_counterLo (s : State) (k : List Byte) : (s.writeKey k).counterLo = s.counterLo := by
  rw [State.writeKey, State.setValid_counterLo, State.setKeyLen_counterLo, State.storeBytes_counterLo]
@[simp] theorem State.writeKey_secretLen (s : State) (k : List Byte) : (s.writeKey k).secretLen = s.secretLen := by
  rw [State.writeKey, State.setValid_secretLen, State.setKeyLen_secretLen, State.storeBytes_secretLen]
@[simp] theorem State.writeKey_keyLen (s : State) (k : List Byte) : (s.writeKey k).keyLen = BitVec.ofNat 16 k.length := by
  rw [State.writeKey, State.setValid_keyLen, State.setKeyLen_keyLen]
@[simp] theorem State.writeKey_trunc (s : State) (k : List Byte) : (s.writeKey k).trunc = s.trunc := by
  rw [State.writeKey, State.setValid_trunc, State.setKeyLen_trunc, State.storeBytes_trunc]
@[simp] theorem State.writeKey_codeValue (s : State) (k : List Byte) : (s.writeKey k).codeValue = s.codeValue := by
  rw [State.writeKey, State.setValid_codeValue, State.setKeyLen_codeValue, State.storeBytes_codeValue]
@[simp] theorem State.writeKey_codeLen (s : State) (k : List Byte) : (s.writeKey k).codeLen = s.codeLen := by
  rw [State.writeKey, State.setValid_codeLen, State.setKeyLen_codeLen, State.storeBytes_codeLen]
@[simp] theorem State.writeKey_ramDraw (s : State) (k : List Byte) : (s.writeKey k).ramDraw = s.ramDraw := by
  rw [State.writeKey, State.setValid_ramDraw, State.setKeyLen_ramDraw, State.storeBytes_ramDraw]
@[simp] theorem State.writeKey_draws (s : State) (k : List Byte) : (s.writeKey k).draws = s.draws := by
  rw [State.writeKey, State.setValid_draws, State.setKeyLen_draws, State.storeBytes_draws]
@[simp] theorem State.writeKey_schedule (s : State) (k : List Byte) : (s.writeKey k).schedule = s.schedule := by
  rw [State.writeKey, State.setValid_schedule, State.setKeyLen_schedule, State.storeBytes_schedule]
@[simp] theorem State.writeKey_program (s : State) (k : List Byte) : (s.writeKey k).program = s.program := by
  rw [State.writeKey, State.setValid_program, State.setKeyLen_program, State.storeBytes_program]
@[simp] theorem State.writeKey_hostReads (s : State) (k : List Byte) : (s.writeKey k).hostReads = s.hostReads := by
  rw [State.writeKey, State.setValid_hostReads, State.setKeyLen_hostReads, State.storeBytes_hostReads]

@[simp] theorem State.writeMac_config (s : State) (c : Wide) : (s.writeMac c).config = s.config := by
  rw [State.writeMac, State.storeBytes_config, State.storeBytes_config]
@[simp] theorem State.writeMac_status (s : State) (c : Wide) : (s.writeMac c).status = s.status := by
  rw [State.writeMac, State.storeBytes_status, State.storeBytes_status]
@[simp] theorem State.writeMac_pending (s : State) (c : Wide) : (s.writeMac c).pending = s.pending := by
  rw [State.writeMac, State.storeBytes_pending, State.storeBytes_pending]
@[simp] theorem State.writeMac_valid (s : State) (c : Wide) : (s.writeMac c).valid = s.valid := by
  rw [State.writeMac, State.storeBytes_valid, State.storeBytes_valid]
@[simp] theorem State.writeMac_digits (s : State) (c : Wide) : (s.writeMac c).digits = s.digits := by
  rw [State.writeMac, State.storeBytes_digits, State.storeBytes_digits]
@[simp] theorem State.writeMac_timeHi (s : State) (c : Wide) : (s.writeMac c).timeHi = s.timeHi := by
  rw [State.writeMac, State.storeBytes_timeHi, State.storeBytes_timeHi]
@[simp] theorem State.writeMac_timeLo (s : State) (c : Wide) : (s.writeMac c).timeLo = s.timeLo := by
  rw [State.writeMac, State.storeBytes_timeLo, State.storeBytes_timeLo]
@[simp] theorem State.writeMac_counterHi (s : State) (c : Wide) : (s.writeMac c).counterHi = s.counterHi := by
  rw [State.writeMac, State.storeBytes_counterHi, State.storeBytes_counterHi]
@[simp] theorem State.writeMac_counterLo (s : State) (c : Wide) : (s.writeMac c).counterLo = s.counterLo := by
  rw [State.writeMac, State.storeBytes_counterLo, State.storeBytes_counterLo]
@[simp] theorem State.writeMac_secretLen (s : State) (c : Wide) : (s.writeMac c).secretLen = s.secretLen := by
  rw [State.writeMac, State.storeBytes_secretLen, State.storeBytes_secretLen]
@[simp] theorem State.writeMac_keyLen (s : State) (c : Wide) : (s.writeMac c).keyLen = s.keyLen := by
  rw [State.writeMac, State.storeBytes_keyLen, State.storeBytes_keyLen]
@[simp] theorem State.writeMac_trunc (s : State) (c : Wide) : (s.writeMac c).trunc = s.trunc := by
  rw [State.writeMac, State.storeBytes_trunc, State.storeBytes_trunc]
@[simp] theorem State.writeMac_codeValue (s : State) (c : Wide) : (s.writeMac c).codeValue = s.codeValue := by
  rw [State.writeMac, State.storeBytes_codeValue, State.storeBytes_codeValue]
@[simp] theorem State.writeMac_codeLen (s : State) (c : Wide) : (s.writeMac c).codeLen = s.codeLen := by
  rw [State.writeMac, State.storeBytes_codeLen, State.storeBytes_codeLen]
@[simp] theorem State.writeMac_ramDraw (s : State) (c : Wide) : (s.writeMac c).ramDraw = s.ramDraw := by
  rw [State.writeMac, State.storeBytes_ramDraw, State.storeBytes_ramDraw]
@[simp] theorem State.writeMac_draws (s : State) (c : Wide) : (s.writeMac c).draws = s.draws := by
  rw [State.writeMac, State.storeBytes_draws, State.storeBytes_draws]
@[simp] theorem State.writeMac_schedule (s : State) (c : Wide) : (s.writeMac c).schedule = s.schedule := by
  rw [State.writeMac, State.storeBytes_schedule, State.storeBytes_schedule]
@[simp] theorem State.writeMac_program (s : State) (c : Wide) : (s.writeMac c).program = s.program := by
  rw [State.writeMac, State.storeBytes_program, State.storeBytes_program]
@[simp] theorem State.writeMac_hostReads (s : State) (c : Wide) : (s.writeMac c).hostReads = s.hostReads := by
  rw [State.writeMac, State.storeBytes_hostReads, State.storeBytes_hostReads]

@[simp] theorem State.writeCode_config (s : State) (mac : List Byte) (d : Nat) : (s.writeCode mac d).config = s.config := by
  rw [State.writeCode, State.setCodeRegs_config, State.storeBytes_config]
@[simp] theorem State.writeCode_status (s : State) (mac : List Byte) (d : Nat) : (s.writeCode mac d).status = s.status := by
  rw [State.writeCode, State.setCodeRegs_status, State.storeBytes_status]
@[simp] theorem State.writeCode_pending (s : State) (mac : List Byte) (d : Nat) : (s.writeCode mac d).pending = s.pending := by
  rw [State.writeCode, State.setCodeRegs_pending, State.storeBytes_pending]
@[simp] theorem State.writeCode_valid (s : State) (mac : List Byte) (d : Nat) : (s.writeCode mac d).valid = s.valid := by
  rw [State.writeCode, State.setCodeRegs_valid, State.storeBytes_valid]
@[simp] theorem State.writeCode_digits (s : State) (mac : List Byte) (d : Nat) : (s.writeCode mac d).digits = s.digits := by
  rw [State.writeCode, State.setCodeRegs_digits, State.storeBytes_digits]
@[simp] theorem State.writeCode_timeHi (s : State) (mac : List Byte) (d : Nat) : (s.writeCode mac d).timeHi = s.timeHi := by
  rw [State.writeCode, State.setCodeRegs_timeHi, State.storeBytes_timeHi]
@[simp] theorem State.writeCode_timeLo (s : State) (mac : List Byte) (d : Nat) : (s.writeCode mac d).timeLo = s.timeLo := by
  rw [State.writeCode, State.setCodeRegs_timeLo, State.storeBytes_timeLo]
@[simp] theorem State.writeCode_counterHi (s : State) (mac : List Byte) (d : Nat) : (s.writeCode mac d).counterHi = s.counterHi := by
  rw [State.writeCode, State.setCodeRegs_counterHi, State.storeBytes_counterHi]
@[simp] theorem State.writeCode_counterLo (s : State) (mac : List Byte) (d : Nat) : (s.writeCode mac d).counterLo = s.counterLo := by
  rw [State.writeCode, State.setCodeRegs_counterLo, State.storeBytes_counterLo]
@[simp] theorem State.writeCode_secretLen (s : State) (mac : List Byte) (d : Nat) : (s.writeCode mac d).secretLen = s.secretLen := by
  rw [State.writeCode, State.setCodeRegs_secretLen, State.storeBytes_secretLen]
@[simp] theorem State.writeCode_keyLen (s : State) (mac : List Byte) (d : Nat) : (s.writeCode mac d).keyLen = s.keyLen := by
  rw [State.writeCode, State.setCodeRegs_keyLen, State.storeBytes_keyLen]
@[simp] theorem State.writeCode_trunc (s : State) (mac : List Byte) (d : Nat) : (s.writeCode mac d).trunc = truncatedValue mac := by
  rw [State.writeCode, State.setCodeRegs_trunc]
@[simp] theorem State.writeCode_codeValue (s : State) (mac : List Byte) (d : Nat) : (s.writeCode mac d).codeValue = BitVec.ofNat 32 (codeValueOf (truncatedValue mac) d) := by
  rw [State.writeCode, State.setCodeRegs_codeValue]
@[simp] theorem State.writeCode_codeLen (s : State) (mac : List Byte) (d : Nat) : (s.writeCode mac d).codeLen = BitVec.ofNat 4 d := by
  rw [State.writeCode, State.setCodeRegs_codeLen]
@[simp] theorem State.writeCode_ramDraw (s : State) (mac : List Byte) (d : Nat) : (s.writeCode mac d).ramDraw = s.ramDraw := by
  rw [State.writeCode, State.setCodeRegs_ramDraw, State.storeBytes_ramDraw]
@[simp] theorem State.writeCode_draws (s : State) (mac : List Byte) (d : Nat) : (s.writeCode mac d).draws = s.draws := by
  rw [State.writeCode, State.setCodeRegs_draws, State.storeBytes_draws]
@[simp] theorem State.writeCode_schedule (s : State) (mac : List Byte) (d : Nat) : (s.writeCode mac d).schedule = s.schedule := by
  rw [State.writeCode, State.setCodeRegs_schedule, State.storeBytes_schedule]
@[simp] theorem State.writeCode_program (s : State) (mac : List Byte) (d : Nat) : (s.writeCode mac d).program = s.program := by
  rw [State.writeCode, State.setCodeRegs_program, State.storeBytes_program]
@[simp] theorem State.writeCode_hostReads (s : State) (mac : List Byte) (d : Nat) : (s.writeCode mac d).hostReads = s.hostReads := by
  rw [State.writeCode, State.setCodeRegs_hostReads, State.storeBytes_hostReads]

@[simp] theorem State.writeGenerated_config (s : State) (c : Wide) (d : Nat) : (s.writeGenerated c d).config = s.config := by
  rw [State.writeGenerated, State.setValid_config, State.writeCode_config, State.writeMac_config]
@[simp] theorem State.writeGenerated_status (s : State) (c : Wide) (d : Nat) : (s.writeGenerated c d).status = s.status := by
  rw [State.writeGenerated, State.setValid_status, State.writeCode_status, State.writeMac_status]
@[simp] theorem State.writeGenerated_pending (s : State) (c : Wide) (d : Nat) : (s.writeGenerated c d).pending = s.pending := by
  rw [State.writeGenerated, State.setValid_pending, State.writeCode_pending, State.writeMac_pending]
@[simp] theorem State.writeGenerated_valid (s : State) (c : Wide) (d : Nat) : (s.writeGenerated c d).valid = s.valid.setMacCode true := by
  rw [State.writeGenerated, State.setValid_valid]
@[simp] theorem State.writeGenerated_digits (s : State) (c : Wide) (d : Nat) : (s.writeGenerated c d).digits = s.digits := by
  rw [State.writeGenerated, State.setValid_digits, State.writeCode_digits, State.writeMac_digits]
@[simp] theorem State.writeGenerated_timeHi (s : State) (c : Wide) (d : Nat) : (s.writeGenerated c d).timeHi = s.timeHi := by
  rw [State.writeGenerated, State.setValid_timeHi, State.writeCode_timeHi, State.writeMac_timeHi]
@[simp] theorem State.writeGenerated_timeLo (s : State) (c : Wide) (d : Nat) : (s.writeGenerated c d).timeLo = s.timeLo := by
  rw [State.writeGenerated, State.setValid_timeLo, State.writeCode_timeLo, State.writeMac_timeLo]
@[simp] theorem State.writeGenerated_counterHi (s : State) (c : Wide) (d : Nat) : (s.writeGenerated c d).counterHi = s.counterHi := by
  rw [State.writeGenerated, State.setValid_counterHi, State.writeCode_counterHi, State.writeMac_counterHi]
@[simp] theorem State.writeGenerated_counterLo (s : State) (c : Wide) (d : Nat) : (s.writeGenerated c d).counterLo = s.counterLo := by
  rw [State.writeGenerated, State.setValid_counterLo, State.writeCode_counterLo, State.writeMac_counterLo]
@[simp] theorem State.writeGenerated_secretLen (s : State) (c : Wide) (d : Nat) : (s.writeGenerated c d).secretLen = s.secretLen := by
  rw [State.writeGenerated, State.setValid_secretLen, State.writeCode_secretLen, State.writeMac_secretLen]
@[simp] theorem State.writeGenerated_keyLen (s : State) (c : Wide) (d : Nat) : (s.writeGenerated c d).keyLen = s.keyLen := by
  rw [State.writeGenerated, State.setValid_keyLen, State.writeCode_keyLen, State.writeMac_keyLen]
@[simp] theorem State.writeGenerated_trunc (s : State) (c : Wide) (d : Nat) : (s.writeGenerated c d).trunc = truncatedValue (hmacSha1 s.keyBytes (serialize c)) := by
  rw [State.writeGenerated, State.setValid_trunc, State.writeCode_trunc]
@[simp] theorem State.writeGenerated_codeValue (s : State) (c : Wide) (d : Nat) : (s.writeGenerated c d).codeValue = BitVec.ofNat 32 (codeValueOf (truncatedValue (hmacSha1 s.keyBytes (serialize c))) d) := by
  rw [State.writeGenerated, State.setValid_codeValue, State.writeCode_codeValue]
@[simp] theorem State.writeGenerated_codeLen (s : State) (c : Wide) (d : Nat) : (s.writeGenerated c d).codeLen = BitVec.ofNat 4 d := by
  rw [State.writeGenerated, State.setValid_codeLen, State.writeCode_codeLen]
@[simp] theorem State.writeGenerated_ramDraw (s : State) (c : Wide) (d : Nat) : (s.writeGenerated c d).ramDraw = s.ramDraw := by
  rw [State.writeGenerated, State.setValid_ramDraw, State.writeCode_ramDraw, State.writeMac_ramDraw]
@[simp] theorem State.writeGenerated_draws (s : State) (c : Wide) (d : Nat) : (s.writeGenerated c d).draws = s.draws := by
  rw [State.writeGenerated, State.setValid_draws, State.writeCode_draws, State.writeMac_draws]
@[simp] theorem State.writeGenerated_schedule (s : State) (c : Wide) (d : Nat) : (s.writeGenerated c d).schedule = s.schedule := by
  rw [State.writeGenerated, State.setValid_schedule, State.writeCode_schedule, State.writeMac_schedule]
@[simp] theorem State.writeGenerated_program (s : State) (c : Wide) (d : Nat) : (s.writeGenerated c d).program = s.program := by
  rw [State.writeGenerated, State.setValid_program, State.writeCode_program, State.writeMac_program]
@[simp] theorem State.writeGenerated_hostReads (s : State) (c : Wide) (d : Nat) : (s.writeGenerated c d).hostReads = s.hostReads := by
  rw [State.writeGenerated, State.setValid_hostReads, State.writeCode_hostReads, State.writeMac_hostReads]

end Sys2Proof.Machine
end

