-- ==== Sys2Proof/Laws/Memory.lean ====
section
/-! SUPPORT. The memory laws: read after write, and that every memory operation keeps the canonical form. -/

namespace Sys2Proof.Machine

-- One proof at a time: side by side, each would hold a thread and its stack.
set_option Elab.async false

theorem Memory.lookup_insert_self (m : Memory) (a : Nat) (b : Byte) : (m.insert a b).lookup a = some b := by
  induction m with
  | nil => simp [Memory.insert, Memory.lookup]
  | cons x m ih =>
    obtain ⟨x, y⟩ := x
    unfold Memory.insert
    split
    · simp [Memory.lookup]
    · split
      · simp [Memory.lookup]
      · rename_i h
        simp [Memory.lookup, ih, Ne.symm h]

theorem Memory.lookup_insert_of_ne (m : Memory) {a a' : Nat} (b : Byte) (h : a' ≠ a) :
    (m.insert a b).lookup a' = m.lookup a' := by
  induction m with
  | nil => simp [Memory.insert, Memory.lookup, Ne.symm h]
  | cons x m ih =>
    obtain ⟨x, y⟩ := x
    unfold Memory.insert
    split
    · simp [Memory.lookup, Ne.symm h]
    · split
      · rename_i e
        simp [Memory.lookup, ← e, Ne.symm h]
      · simp [Memory.lookup, ih]

theorem Memory.lookup_erase_self (m : Memory) (a : Nat) : (m.erase a).lookup a = none := by
  induction m with
  | nil => rfl
  | cons x m ih =>
    obtain ⟨x, y⟩ := x
    unfold Memory.erase
    split
    · exact ih
    · rename_i h
      simp [Memory.lookup, ih, h]

theorem Memory.lookup_erase_of_ne (m : Memory) {a a' : Nat} (h : a' ≠ a) : (m.erase a).lookup a' = m.lookup a' := by
  induction m with
  | nil => rfl
  | cons x m ih =>
    obtain ⟨x, y⟩ := x
    unfold Memory.erase
    split
    · rename_i e
      simp [Memory.lookup, ih, e, Ne.symm h]
    · simp [Memory.lookup, ih]

theorem Memory.above_mono {m : Memory} {a a' : Nat} (h : m.above a = true) (le : a' ≤ a) : m.above a' = true := by
  simp only [Memory.above, List.all_eq_true, decide_eq_true_eq] at *
  exact fun x hx => Nat.lt_of_le_of_lt le (h x hx)

theorem Memory.above_insert {m : Memory} {a0 a : Nat} {b : Byte} (h : m.above a0 = true) (lt : a0 < a) :
    (m.insert a b).above a0 = true := by
  induction m with
  | nil => simp [Memory.insert, Memory.above, lt]
  | cons x m ih =>
    obtain ⟨x, y⟩ := x
    simp only [Memory.above, List.all_cons, Bool.and_eq_true, decide_eq_true_eq] at h ih
    unfold Memory.insert
    split
    · simp only [Memory.above, List.all_cons, Bool.and_eq_true, decide_eq_true_eq]
      exact ⟨lt, h.1, h.2⟩
    · split
      · simp only [Memory.above, List.all_cons, Bool.and_eq_true, decide_eq_true_eq]
        exact ⟨lt, h.2⟩
      · simp only [Memory.above, List.all_cons, Bool.and_eq_true, decide_eq_true_eq]
        exact ⟨h.1, ih h.2⟩

theorem Memory.above_erase {m : Memory} {a0 a : Nat} (h : m.above a0 = true) : (m.erase a).above a0 = true := by
  induction m with
  | nil => rfl
  | cons x m ih =>
    obtain ⟨x, y⟩ := x
    simp only [Memory.above, List.all_cons, Bool.and_eq_true, decide_eq_true_eq] at h ih
    unfold Memory.erase
    split
    · exact ih h.2
    · simp only [Memory.above, List.all_cons, Bool.and_eq_true, decide_eq_true_eq]
      exact ⟨h.1, ih h.2⟩

/-- Listing an allowed cell keeps the canonical form. -/
theorem Memory.wf_insert {c : Config} {m : Memory} {a : Nat} {b : Byte} (h : m.wf c = true)
    (ok : cellOk c (a, b) = true) : (m.insert a b).wf c = true := by
  induction m with
  | nil => simp [Memory.insert, Memory.wf, Memory.above, ok]
  | cons x m ih =>
    obtain ⟨x, y⟩ := x
    simp only [Memory.wf, Bool.and_eq_true] at h
    obtain ⟨⟨hx, hab⟩, hm⟩ := h
    unfold Memory.insert
    split
    · rename_i lt
      simp only [Memory.wf, Bool.and_eq_true]
      refine ⟨⟨ok, ?_⟩, ⟨hx, hab⟩, hm⟩
      have := Memory.above_mono hab (Nat.le_of_lt lt)
      simpa [Memory.above, lt] using this
    · split
      · rename_i e
        simp only [Memory.wf, Bool.and_eq_true]
        exact ⟨⟨ok, by simpa [e] using hab⟩, hm⟩
      · simp only [Memory.wf, Bool.and_eq_true]
        exact ⟨⟨hx, Memory.above_insert hab (by omega)⟩, ih hm⟩

/-- Dropping a cell keeps the canonical form. -/
theorem Memory.wf_erase {c : Config} {m : Memory} {a : Nat} (h : m.wf c = true) : (m.erase a).wf c = true := by
  induction m with
  | nil => rfl
  | cons x m ih =>
    obtain ⟨x, y⟩ := x
    simp only [Memory.wf, Bool.and_eq_true] at h
    obtain ⟨⟨hx, hab⟩, hm⟩ := h
    unfold Memory.erase
    split
    · exact ih hm
    · simp only [Memory.wf, Bool.and_eq_true]
      exact ⟨⟨hx, Memory.above_erase hab⟩, ih hm⟩

/-- Storing a buffer byte keeps the canonical form. -/
theorem Memory.wf_write {c : Config} {m : Memory} {a : Nat} {b : Byte} (h : m.wf c = true)
    (ok : isBuffer c a = true) : (m.write c a b).wf c = true := by
  unfold Memory.write
  split
  · rename_i ram
    exact Memory.wf_insert h (by simp [cellOk, ok, ram])
  · split
    · exact Memory.wf_erase h
    · rename_i nz
      exact Memory.wf_insert h (by simp [cellOk, ok, nz])

/-- A write leaves every other offset alone. -/
theorem Memory.lookup_write_of_ne (c : Config) (m : Memory) {a a' : Nat} (b : Byte) (h : a' ≠ a) :
    (m.write c a b).lookup a' = m.lookup a' := by
  unfold Memory.write
  split
  · exact Memory.lookup_insert_of_ne m b h
  · split
    · exact Memory.lookup_erase_of_ne m h
    · exact Memory.lookup_insert_of_ne m b h

end Sys2Proof.Machine
end

