-- ==== Sys2Proof/Laws/Ops.lean ====
section
/-! SUPPORT. What the shared operations do: reads after stores over the five buffers, the canonical form kept by every
store, and the two ways a command completes. -/

namespace Sys2Proof.Machine

-- One proof at a time: side by side, each would hold a thread and its stack.
set_option Elab.async false

/-- A read depends on the cells, the capacity and the draw alone. -/
theorem State.readByte_congr {s t : State} (hm : t.mem = s.mem) (hc : t.config = s.config)
    (hd : t.ramDraw = s.ramDraw) (a : Nat) : t.readByte a = s.readByte a := by
  simp [State.readByte, hm, hc, hd]

/-- So does a read of several bytes. -/
theorem State.readBytes_congr {s t : State} {a n : Nat} (h : ∀ i, i < n → t.readByte (a + i) = s.readByte (a + i)) :
    t.readBytes a n = s.readBytes a n := by
  induction n generalizing a with
  | zero => rfl
  | succ n ih =>
    have h0 := h 0 (by omega)
    have ht : t.readBytes (a + 1) n = s.readBytes (a + 1) n :=
      ih fun i hi => by
        have := h (i + 1) (by omega)
        rwa [← Nat.add_assoc, Nat.add_right_comm] at this
    simp only [Nat.add_zero] at h0
    simp [State.readBytes, h0, ht]

@[simp] theorem State.readBytes_setValid (s : State) (v : Valid) (a n : Nat) :
    (s.setValid v).readBytes a n = s.readBytes a n := State.readBytes_congr fun _ _ => rfl

@[simp] theorem State.readBytes_setKeyLen (s : State) (l : BitVec 16) (a n : Nat) :
    (s.setKeyLen l).readBytes a n = s.readBytes a n := State.readBytes_congr fun _ _ => rfl

@[simp] theorem State.readBytes_setCounter (s : State) (c : Wide) (a n : Nat) :
    (s.setCounter c).readBytes a n = s.readBytes a n := State.readBytes_congr fun _ _ => rfl

@[simp] theorem State.readBytes_setCodeRegs (s : State) (t : BitVec 31) (v : Word) (d : BitVec 4) (a n : Nat) :
    (s.setCodeRegs t v d).readBytes a n = s.readBytes a n := State.readBytes_congr fun _ _ => rfl

@[simp] theorem State.readBytes_succeed (s : State) (a n : Nat) : s.succeed.readBytes a n = s.readBytes a n :=
  State.readBytes_congr fun _ _ => rfl

@[simp] theorem State.readBytes_fail (s : State) (e : CmdError) (clear : Valid → Valid) (a n : Nat) :
    (s.fail e clear).readBytes a n = s.readBytes a n := State.readBytes_congr fun _ _ => rfl

@[simp] theorem State.readBytes_issue (s : State) (w : Word) (a n : Nat) :
    (s.issue w).readBytes a n = s.readBytes a n := State.readBytes_congr fun _ _ => rfl

@[simp] theorem State.readBytes_record (s : State) (off : Offset) (v : ReadValue) (a n : Nat) :
    (s.record off v).readBytes a n = s.readBytes a n := State.readBytes_congr fun _ _ => rfl

@[simp] theorem State.readBytes_length (s : State) (a n : Nat) : (s.readBytes a n).length = n := by
  induction n generalizing a with
  | zero => rfl
  | succ n ih => simp [State.readBytes, ih]

/-- Byte i of a read of several bytes. -/
theorem State.readBytes_getElem (s : State) (a n i : Nat) (h : i < (s.readBytes a n).length) :
    (s.readBytes a n)[i] = s.readByte (a + i) := by
  induction n generalizing a i with
  | zero => simp [State.readBytes] at h
  | succ n ih =>
    cases i with
    | zero => simp [State.readBytes]
    | succ i => simp [State.readBytes, ih, Nat.add_assoc, Nat.add_comm 1 i]

/-- A buffer byte reads as the byte last stored, a zero in a result buffer included. -/
theorem State.readByte_storeByte_self (s : State) {a : Nat} (b : Byte) (h : isBuffer s.config a = true) :
    (s.storeByte a b).readByte a = b := by
  simp only [State.storeByte, h, if_true, State.readByte, Memory.write]
  by_cases ram : isRam s.config a = true
  · simp [ram, Memory.lookup_insert_self]
  · by_cases z : b = 0#8
    · simp [ram, z, Memory.lookup_erase_self, unlistedByte]
    · simp [ram, z, Memory.lookup_insert_self]

/-- A store leaves every other offset alone. -/
theorem State.readByte_storeByte_of_ne (s : State) {a a' : Nat} (b : Byte) (h : a' ≠ a) :
    (s.storeByte a b).readByte a' = s.readByte a' := by
  unfold State.storeByte
  split
  · simp [State.readByte, Memory.lookup_write_of_ne _ _ _ h]
  · rfl

/-- A store of several bytes leaves every offset outside them alone. -/
theorem State.readByte_storeBytes_outside (s : State) {a a' : Nat} (bs : List Byte)
    (h : a' < a ∨ a + bs.length ≤ a') : (s.storeBytes a bs).readByte a' = s.readByte a' := by
  induction bs generalizing s a with
  | nil => rfl
  | cons b bs ih =>
    simp only [List.length_cons] at h
    rw [State.storeBytes, ih _ (by omega), State.readByte_storeByte_of_ne _ _ (by omega)]

/-- Bytes stored in a buffer read back. -/
theorem State.readBytes_storeBytes (s : State) {a : Nat} (bs : List Byte)
    (h : ∀ i, i < bs.length → isBuffer s.config (a + i) = true) : (s.storeBytes a bs).readBytes a bs.length = bs := by
  induction bs generalizing s a with
  | nil => rfl
  | cons b bs ih =>
    have h0 : isBuffer s.config a = true := by simpa using h 0 (by simp)
    have hr : ∀ i, i < bs.length → isBuffer (s.storeByte a b).config (a + 1 + i) = true := fun i hi => by
      have := h (i + 1) (by simpa using hi)
      rwa [State.storeByte_config, Nat.add_assoc, Nat.add_comm 1 i]
    simp only [List.length_cons, State.readBytes, State.storeBytes, ih _ hr, List.cons.injEq, and_true]
    rw [State.readByte_storeBytes_outside _ _ (by omega), State.readByte_storeByte_self _ _ h0]

/-- Bytes stored elsewhere leave a read of several bytes alone. -/
theorem State.readBytes_storeBytes_outside (s : State) {a a' n : Nat} (bs : List Byte)
    (h : a' + n ≤ a ∨ a + bs.length ≤ a') : (s.storeBytes a bs).readBytes a' n = s.readBytes a' n :=
  State.readBytes_congr fun i hi => State.readByte_storeBytes_outside s bs (by omega)

/-- What a store leaves in the cells depends on the cells and the capacity alone. -/
theorem State.storeBytes_mem_congr {s t : State} (a : Nat) (bs : List Byte) (hm : t.mem = s.mem)
    (hc : t.config = s.config) : (t.storeBytes a bs).mem = (s.storeBytes a bs).mem := by
  induction bs generalizing s t a with
  | nil => exact hm
  | cons b bs ih =>
    refine ih (a + 1) ?_ (by simp [hc])
    simp only [State.storeByte, hc]
    split <;> simp [hm]

/-- A store keeps the canonical form. -/
theorem State.wf_storeByte {s : State} {a : Nat} {b : Byte} (h : s.mem.wf s.config = true) :
    (s.storeByte a b).mem.wf s.config = true := by
  unfold State.storeByte
  split
  · rename_i ok
    exact Memory.wf_write h ok
  · exact h

/-- A store of several bytes keeps the canonical form. -/
theorem State.wf_storeBytes {s : State} {a : Nat} {bs : List Byte} (h : s.mem.wf s.config = true) :
    (s.storeBytes a bs).mem.wf s.config = true := by
  induction bs generalizing s a with
  | nil => exact h
  | cons b bs ih =>
    have := ih (s := s.storeByte a b) (a := a + 1) (by simpa using State.wf_storeByte (b := b) h)
    simpa [State.storeBytes] using this

/-- A host write of a byte keeps the canonical form. -/
theorem State.wf_hostStore {s : State} {a : Nat} {b : Byte} (h : s.mem.wf s.config = true) :
    (s.hostStore a b).mem.wf s.config = true := by
  unfold State.hostStore
  split
  · exact State.wf_storeByte h
  · exact h

/-- The memory after reset is in canonical form. -/
theorem reset_memory_wf : State.reset.mem.wf State.reset.config = true := rfl

@[simp] theorem State.complete_ok (s t : State) (i : Instr) : s.complete i (.ok t) = t.succeed := rfl

@[simp] theorem State.complete_error (s : State) (i : Instr) (e : CmdError) :
    s.complete i (.error e) = s.fail e (Valid.clearedBy i) := rfl

/-- The two ways a command completes: its writes with STATUS saying success, or the failure of R82. -/
theorem State.complete_cases (s : State) (i : Instr) (r : Except CmdError State) :
    (∃ t, r = .ok t ∧ s.complete i r = t.succeed) ∨
      (∃ e, r = .error e ∧ s.complete i r = s.fail e (Valid.clearedBy i)) := by
  cases r with
  | ok t => exact .inl ⟨t, rfl, rfl⟩
  | error e => exact .inr ⟨e, rfl, rfl⟩

/-- Which offsets the host may write, as a proposition on numbers (20_memory.md R30, R34). -/
theorem isRam_iff (c : Config) (a : Nat) :
    isRam c a = true ↔ (0x1000 ≤ a ∧ a < 0x1000 + c.secretMax) ∨ (0x2000 ≤ a ∧ a < 0x2000 + c.secretMax) := by
  simp only [isRam, Bool.or_eq_true, Bool.and_eq_true, decide_eq_true_eq]
  simp only [secretBase, keyBase, Config.keyMax]

/-- No offset below the SECRET buffer is one the host may write. -/
theorem isRam_of_lt (c : Config) {a : Nat} (h : a < secretBase) : isRam c a = false := by
  have h1 : ¬secretBase ≤ a := by omega
  have h2 : ¬keyBase ≤ a := fun k => h1 (Nat.le_trans (by decide) k)
  simp [isRam, h1, h2]

/-- The offsets of CODE, MSG and MAC are buffer offsets at every capacity. -/
theorem isBuffer_code (c : Config) {i : Nat} (h : i < 16) : isBuffer c (codeBase + i) = true := by
  simp [isBuffer, isResult, h]

theorem isBuffer_msg (c : Config) {i : Nat} (h : i < 8) : isBuffer c (msgBase + i) = true := by
  simp [isBuffer, isResult, h]

theorem isBuffer_mac (c : Config) {i : Nat} (h : i < 20) : isBuffer c (macBase + i) = true := by
  simp [isBuffer, isResult, h]

/-- The offsets of KEY below KEY_MAX are buffer offsets. -/
theorem isBuffer_key (c : Config) {i : Nat} (h : i < c.keyMax) : isBuffer c (keyBase + i) = true := by
  simp [isBuffer, isRam, h]

/-- The offsets of SECRET below SECRET_MAX are buffer offsets. -/
theorem isBuffer_secret (c : Config) {i : Nat} (h : i < c.secretMax) : isBuffer c (secretBase + i) = true := by
  simp [isBuffer, isRam, h]

end Sys2Proof.Machine
end

