-- ==== Sys2Proof/Laws/Functions.lean ====
section
/-! SUPPORT. The lengths of the byte sequences the units answer: big-endian bytes, the serialized counter, the SHA-1
digest, the MAC and the code. -/

namespace Sys2Proof.Machine

-- One proof at a time: side by side, each would hold a thread and its stack.
set_option Elab.async false

@[simp] theorem beBytes_length (n v : Nat) : (beBytes n v).length = n := by
  induction n with
  | zero => rfl
  | succ n ih => simp [beBytes, ih]

@[simp] theorem serialize_length (c : Wide) : (serialize c).length = 8 := by simp [serialize]

@[simp] theorem Chain.digest_length (h : Chain) : h.digest.length = 20 := by simp [Chain.digest]

@[simp] theorem sha1_length (m : List Byte) : (sha1 m).length = 20 := by simp [sha1]

@[simp] theorem hmacSha1_length (key text : List Byte) : (hmacSha1 key text).length = 20 := by simp [hmacSha1]

@[simp] theorem codeText_length (v d : Nat) : (codeText v d).length = 16 := by simp [codeText]

@[simp] theorem keyBlock_length (key : List Byte) : (keyBlock key).length = 64 := by
  unfold keyBlock
  split
  · simp [zeros]
  · simp [zeros]
    omega

/-- Four bytes as a word, and as a big-endian number. -/
theorem wordOfBytes_toNat (b0 b1 b2 b3 : Byte) : (wordOfBytes b0 b1 b2 b3).toNat = beValue [b0, b1, b2, b3] := by
  have h : ∀ (n : Nat) (x : BitVec n) (y : Byte), (x ++ y).toNat = x.toNat * 256 + y.toNat := fun n x y => by
    rw [BitVec.toNat_append, ← Nat.shiftLeft_add_eq_or_of_lt y.isLt, Nat.shiftLeft_eq]
  simp only [wordOfBytes, h, beValue, List.foldl]
  omega

/-- MSG holds the counter bytes after the writes of one HMAC computation. -/
theorem State.writeMac_msgBytes (s : State) (c : Wide) : (s.writeMac c).msgBytes = serialize c := by
  have hb : ∀ i, i < (serialize c).length → isBuffer s.config (msgBase + i) = true := fun i hi =>
    isBuffer_msg s.config (by simpa using hi)
  have := State.readBytes_storeBytes s (serialize c) hb
  rw [serialize_length] at this
  rw [State.msgBytes, State.writeMac, State.readBytes_storeBytes_outside _ _ (by simp [msgBase, macBase]), this]

/-- MAC holds the MAC after the writes of one HMAC computation. -/
theorem State.writeMac_macBytes (s : State) (c : Wide) :
    (s.writeMac c).macBytes = hmacSha1 s.keyBytes (serialize c) := by
  have hb : ∀ i, i < (hmacSha1 s.keyBytes (serialize c)).length →
      isBuffer (s.storeBytes msgBase (serialize c)).config (macBase + i) = true := fun i hi =>
    isBuffer_mac _ (by simpa using hi)
  have := State.readBytes_storeBytes (s.storeBytes msgBase (serialize c)) _ hb
  rw [hmacSha1_length] at this
  rw [State.macBytes, State.writeMac, this]

theorem State.writeCode_mem (s : State) (mac : List Byte) (d : Nat) :
    (s.writeCode mac d).mem = (s.storeBytes codeBase (codeText (codeValueOf (truncatedValue mac) d) d)).mem := rfl

theorem State.writeKey_mem (s : State) (k : List Byte) : (s.writeKey k).mem = (s.storeBytes keyBase k).mem := rfl

/-- CODE holds the code text after the writes of one truncation. -/
theorem State.writeCode_codeBytes (s : State) (mac : List Byte) (d : Nat) :
    (s.writeCode mac d).codeBytes = codeText (codeValueOf (truncatedValue mac) d) d := by
  have hb : ∀ i, i < (codeText (codeValueOf (truncatedValue mac) d) d).length →
      isBuffer s.config (codeBase + i) = true := fun i hi => isBuffer_code _ (by simpa using hi)
  have := State.readBytes_storeBytes s _ hb
  rw [codeText_length] at this
  rw [State.codeBytes, ← State.readBytes_congr fun i _ => State.readByte_congr (s.writeCode_mem mac d).symm
    (by simp) (by simp) (codeBase + i), this]

/-- The writes of an HMAC computation touch MSG and MAC alone. -/
theorem State.writeMac_readByte_outside (s : State) (c : Wide) {a : Nat} (hmsg : a < msgBase ∨ msgBase + 8 ≤ a)
    (hmac : a < macBase ∨ macBase + 20 ≤ a) : (s.writeMac c).readByte a = s.readByte a := by
  rw [State.writeMac, State.readByte_storeBytes_outside _ _ (by simpa using hmac),
    State.readByte_storeBytes_outside _ _ (by simpa using hmsg)]

/-- The writes of a truncation touch CODE alone. -/
theorem State.writeCode_readByte_outside (s : State) (mac : List Byte) (d : Nat) {a : Nat}
    (h : a < codeBase ∨ codeBase + 16 ≤ a) : (s.writeCode mac d).readByte a = s.readByte a := by
  rw [State.readByte_congr (s.writeCode_mem mac d) (by simp) (by simp),
    State.readByte_storeBytes_outside _ _ (by simpa using h)]

/-- The writes of a DECODE touch KEY alone. -/
theorem State.writeKey_readByte_outside (s : State) (k : List Byte) {a : Nat}
    (h : a < keyBase ∨ keyBase + k.length ≤ a) : (s.writeKey k).readByte a = s.readByte a := by
  rw [State.readByte_congr (s.writeKey_mem k) (by simp) (by simp), State.readByte_storeBytes_outside _ _ h]

end Sys2Proof.Machine
end

