-- ==== Sys2Proof/Laws/PerInstr.lean ====
section
/-! SUPPORT. Statements made once per command: the words of 30_encoding.md R43 and the decoder agree. -/

namespace Sys2Proof.Laws.CommandWord

/-- The command's word decodes to it, under the table's numbering too, and has the form of R42 and R43. -/
def Statement (i : Instr) : Prop :=
  i.wf = true ∧ Sys2Proof.decode (encode i) = .ok i ∧ decodeTableWord 32 (encode i).toNat = some i ∧
    commandWordWf (encode i) = true

theorem decode : Statement .decode := ⟨rfl, rfl, rfl, rfl⟩

theorem hmacCtr : Statement .hmacCtr := ⟨rfl, rfl, rfl, rfl⟩

theorem trunc : Statement .trunc := ⟨rfl, rfl, rfl, rfl⟩

theorem genHotp : Statement .genHotp := ⟨rfl, rfl, rfl, rfl⟩

theorem genTotp : Statement .genTotp := ⟨rfl, rfl, rfl, rfl⟩

end Sys2Proof.Laws.CommandWord
end

