-- ==== Sys2Proof/Laws/Window.lean ====
section
/-! SUPPORT. What one host access can do, said once: a read adds to the host's record alone; a write in an idle block
stores bytes or writes a register; everything else faults. -/

namespace Sys2Proof.Machine

-- One proof at a time: side by side, each would hold a thread and its stack.
set_option Elab.async false

/-- A host read changes the record of reads and, where the value is a free one, the draw counter. -/
theorem State.hostRead_cases (s : State) (off : Offset) (v : ReadValue) (free : Word → ReadValue) :
    s.hostRead off v free = s.record off v ∨
      (s.status.busy = true ∧ readableWhileBusy off.toNat = false ∧
        s.hostRead off v free = { s.record off (free (Config.freeRead s.draws)) with draws := s.draws + 1 }) := by
  unfold State.hostRead
  split
  · rename_i h
    simp only [Bool.and_eq_true, Bool.not_eq_true'] at h
    exact .inr ⟨h.1, h.2, rfl⟩
  · exact .inl rfl

@[simp] theorem State.hostRead_config (s : State) (off : Offset) (v : ReadValue) (free : Word → ReadValue) :
    (s.hostRead off v free).config = s.config := by
  unfold State.hostRead; split <;> rfl
@[simp] theorem State.hostRead_status (s : State) (off : Offset) (v : ReadValue) (free : Word → ReadValue) :
    (s.hostRead off v free).status = s.status := by
  unfold State.hostRead; split <;> rfl
@[simp] theorem State.hostRead_pending (s : State) (off : Offset) (v : ReadValue) (free : Word → ReadValue) :
    (s.hostRead off v free).pending = s.pending := by
  unfold State.hostRead; split <;> rfl
@[simp] theorem State.hostRead_valid (s : State) (off : Offset) (v : ReadValue) (free : Word → ReadValue) :
    (s.hostRead off v free).valid = s.valid := by
  unfold State.hostRead; split <;> rfl
@[simp] theorem State.hostRead_digits (s : State) (off : Offset) (v : ReadValue) (free : Word → ReadValue) :
    (s.hostRead off v free).digits = s.digits := by
  unfold State.hostRead; split <;> rfl
@[simp] theorem State.hostRead_timeHi (s : State) (off : Offset) (v : ReadValue) (free : Word → ReadValue) :
    (s.hostRead off v free).timeHi = s.timeHi := by
  unfold State.hostRead; split <;> rfl
@[simp] theorem State.hostRead_timeLo (s : State) (off : Offset) (v : ReadValue) (free : Word → ReadValue) :
    (s.hostRead off v free).timeLo = s.timeLo := by
  unfold State.hostRead; split <;> rfl
@[simp] theorem State.hostRead_counterHi (s : State) (off : Offset) (v : ReadValue) (free : Word → ReadValue) :
    (s.hostRead off v free).counterHi = s.counterHi := by
  unfold State.hostRead; split <;> rfl
@[simp] theorem State.hostRead_counterLo (s : State) (off : Offset) (v : ReadValue) (free : Word → ReadValue) :
    (s.hostRead off v free).counterLo = s.counterLo := by
  unfold State.hostRead; split <;> rfl
@[simp] theorem State.hostRead_secretLen (s : State) (off : Offset) (v : ReadValue) (free : Word → ReadValue) :
    (s.hostRead off v free).secretLen = s.secretLen := by
  unfold State.hostRead; split <;> rfl
@[simp] theorem State.hostRead_keyLen (s : State) (off : Offset) (v : ReadValue) (free : Word → ReadValue) :
    (s.hostRead off v free).keyLen = s.keyLen := by
  unfold State.hostRead; split <;> rfl
@[simp] theorem State.hostRead_trunc (s : State) (off : Offset) (v : ReadValue) (free : Word → ReadValue) :
    (s.hostRead off v free).trunc = s.trunc := by
  unfold State.hostRead; split <;> rfl
@[simp] theorem State.hostRead_codeValue (s : State) (off : Offset) (v : ReadValue) (free : Word → ReadValue) :
    (s.hostRead off v free).codeValue = s.codeValue := by
  unfold State.hostRead; split <;> rfl
@[simp] theorem State.hostRead_codeLen (s : State) (off : Offset) (v : ReadValue) (free : Word → ReadValue) :
    (s.hostRead off v free).codeLen = s.codeLen := by
  unfold State.hostRead; split <;> rfl
@[simp] theorem State.hostRead_mem (s : State) (off : Offset) (v : ReadValue) (free : Word → ReadValue) :
    (s.hostRead off v free).mem = s.mem := by
  unfold State.hostRead; split <;> rfl
@[simp] theorem State.hostRead_ramDraw (s : State) (off : Offset) (v : ReadValue) (free : Word → ReadValue) :
    (s.hostRead off v free).ramDraw = s.ramDraw := by
  unfold State.hostRead; split <;> rfl
@[simp] theorem State.hostRead_schedule (s : State) (off : Offset) (v : ReadValue) (free : Word → ReadValue) :
    (s.hostRead off v free).schedule = s.schedule := by
  unfold State.hostRead; split <;> rfl
@[simp] theorem State.hostRead_program (s : State) (off : Offset) (v : ReadValue) (free : Word → ReadValue) :
    (s.hostRead off v free).program = s.program := by
  unfold State.hostRead; split <;> rfl

/-- One test of the register map. -/
theorem ite_some_cases {p : Prop} [Decidable p] {x y : Reg} {o : Option Reg} (h : (if p then some x else o) = some y) :
    (p ∧ x = y) ∨ o = some y := by
  by_cases hp : p
  · rw [if_pos hp] at h
    exact .inl ⟨hp, Option.some.inj h⟩
  · rw [if_neg hp] at h
    exact .inr h

/-- The offset of the register a window offset names: the map of R30 read backwards. -/
theorem regAt_some {a : Nat} {r : Reg} (h : regAt a = some r) :
    (a, r) ∈ [(0x00, Reg.status), (0x04, .cmd), (0x08, .valid), (0x0C, .digits), (0x10, .timeHi), (0x14, .timeLo),
      (0x18, .counterHi), (0x1C, .counterLo), (0x20, .secretLen), (0x24, .keyLen), (0x28, .trunc), (0x2C, .codeValue),
      (0x30, .codeLen), (0x34, .caps)] := by
  unfold regAt at h
  iterate 14 (replace h := ite_some_cases h; rcases h with ⟨rfl, rfl⟩ | h; decide)
  cases h

/-- A host write of a byte changes the cells alone. -/
theorem State.hostStore_eq (s : State) (a : Nat) (b : Byte) : ∃ m, s.hostStore a b = { s with mem := m } := by
  unfold State.hostStore State.storeByte
  split
  · split
    · exact ⟨_, rfl⟩
    · exact ⟨s.mem, rfl⟩
  · exact ⟨s.mem, rfl⟩

/-- The three ways an access answers a next state. -/
theorem hostAccess_next {a : Access} {s t : State} (h : hostAccess a s = .next t) :
    (a.isWrite = false ∧ a.wf = true ∧ ∃ off v free, t = s.hostRead off v free) ∨
      (s.status.busy = false ∧ ∃ off b, a = .w8 off b ∧ 0x40 ≤ off.toNat ∧ t = s.hostStore off.toNat b) ∨
      (s.status.busy = false ∧ ∃ off v, a = .w32 off v ∧ off.toNat % 4 = 0 ∧ t = s.hostStoreWord off.toNat v) := by
  cases a with
  | r8 off =>
    cases h
    exact .inl ⟨rfl, rfl, off, _, _, rfl⟩
  | r32 off =>
    simp only [hostAccess] at h
    split at h
    · rename_i al
      cases h
      exact .inl ⟨rfl, by simpa [Access.wf] using al, off, _, _, rfl⟩
    · cases h
  | w8 off b =>
    simp only [hostAccess] at h
    split at h
    · cases h
    · rename_i nb
      split at h
      · cases h
      · rename_i lo
        cases h
        exact .inr (.inl ⟨by simpa using nb, off, b, rfl, by omega, rfl⟩)
  | w32 off v =>
    simp only [hostAccess] at h
    split at h
    · cases h
    · rename_i nb
      split at h
      · rename_i al
        cases h
        exact .inr (.inr ⟨by simpa using nb, off, v, rfl, al, rfl⟩)
      · cases h
  | readOther off bits => cases h
  | writeOther off bits =>
    simp only [hostAccess] at h
    split at h <;> cases h

/-- A host write of a word is one register's write, four byte stores, or nothing. -/
theorem State.hostStoreWord_cases (s : State) (a : Nat) (v : Word) :
    (a < 0x40 ∧ ∃ r, regAt a = some r ∧ s.hostStoreWord a v = s.writeReg r v) ∨
      (a < 0x40 ∧ regAt a = none ∧ s.hostStoreWord a v = s) ∨
      (0x40 ≤ a ∧ s.hostStoreWord a v =
        (((s.hostStore a (wordByte v 0)).hostStore (a + 1) (wordByte v 1)).hostStore (a + 2) (wordByte v 2)).hostStore
          (a + 3) (wordByte v 3)) := by
  unfold State.hostStoreWord
  split
  · rename_i lo
    split
    · rename_i r e
      exact .inl ⟨lo, r, e, rfl⟩
    · rename_i e
      exact .inr (.inl ⟨lo, e, rfl⟩)
  · exact .inr (.inr ⟨by omega, rfl⟩)

/-- A host write of a byte leaves every other offset alone. -/
theorem State.readByte_hostStore_of_ne (s : State) {a a' : Nat} (b : Byte) (h : a' ≠ a) :
    (s.hostStore a b).readByte a' = s.readByte a' := by
  unfold State.hostStore
  split
  · exact State.readByte_storeByte_of_ne s b h
  · rfl

/-- A host write of a byte leaves an offset outside SECRET and KEY alone. -/
theorem State.readByte_hostStore_notRam (s : State) {a a' : Nat} (b : Byte) (h : isRam s.config a' = false) :
    (s.hostStore a b).readByte a' = s.readByte a' := by
  unfold State.hostStore
  split
  · rename_i ram
    exact State.readByte_storeByte_of_ne s b fun e => by simp [e, ram] at h
  · rfl

/-- A host write of a byte of SECRET or KEY reads back. -/
theorem State.readByte_hostStore_self (s : State) {a : Nat} (b : Byte) (h : isRam s.config a = true) :
    (s.hostStore a b).readByte a = b := by
  rw [State.hostStore, if_pos h]
  exact State.readByte_storeByte_self s b (by simp [isBuffer, h])

end Sys2Proof.Machine
end

