-- ==== Sys2Proof/Laws/Step.lean ====
section
/-! SUPPORT. What the completion of a command and a step can do, said once. -/

namespace Sys2Proof.Machine

-- One proof at a time: side by side, each would hold a thread and its stack.
set_option Elab.async false

/-- The pseudocode of each command. -/
def runCommand : Instr → State → Except CmdError State
  | .decode => runDecode
  | .hmacCtr => runHmacCtr
  | .trunc => runTrunc
  | .genHotp => runGenHotp
  | .genTotp => runGenTotp

/-- Every command completes: exec always answers a next state. -/
theorem exec_eq (i : Instr) (s : State) : exec i s = .next (s.complete i (runCommand i s)) := by
  cases i <;> rfl

theorem checkKey_ok {s : State} {u : Unit} (h : checkKey s = .ok u) :
    s.valid.key = true ∧ s.keyLen.toNat ≤ s.config.keyMax := by
  unfold checkKey at h
  split at h
  · cases h
  · rename_i hk
    split at h
    · cases h
    · exact ⟨by simpa using hk, by omega⟩

theorem checkKey_of {s : State} (hk : s.valid.key = true) (hl : s.keyLen.toNat ≤ s.config.keyMax) :
    checkKey s = .ok () := by
  simp [checkKey, hk, Nat.not_lt.mpr hl]

theorem digitCount_ok {sel d : Nat} (h : digitCount sel = .ok d) :
    1 ≤ d ∧ d ≤ 10 ∧ (sel = 0 ∧ d = 6 ∨ sel ≠ 0 ∧ d = sel) := by
  unfold digitCount at h
  split at h
  · cases h
    omega
  · split at h
    · cases h
      omega
    · cases h

theorem checkGenerate_ok {s : State} {d : Nat} (h : checkGenerate s = .ok d) :
    s.valid.key = true ∧ s.keyLen.toNat ≤ s.config.keyMax ∧ digitCount s.digitSelector = .ok d := by
  unfold checkGenerate at h
  split at h
  · cases h
  · rename_i u hk
    exact ⟨(checkKey_ok hk).1, (checkKey_ok hk).2, h⟩

theorem checkGenerate_of {s : State} {d : Nat} (hk : s.valid.key = true) (hl : s.keyLen.toNat ≤ s.config.keyMax)
    (hd : digitCount s.digitSelector = .ok d) : checkGenerate s = .ok d := by
  simp [checkGenerate, checkKey_of hk hl, hd]

theorem runDecode_ok {s t : State} (h : runDecode s = .ok t) :
    s.secretLen.toNat ≤ s.config.secretMax ∧ ∃ k, decodeSecret s.secretBytes = .ok k ∧ t = s.writeKey k := by
  unfold runDecode at h
  split at h
  · cases h
  · rename_i hl
    split at h
    · cases h
    · rename_i k hk
      cases h
      exact ⟨by omega, k, hk, rfl⟩

theorem runHmacCtr_ok {s t : State} (h : runHmacCtr s = .ok t) :
    s.valid.key = true ∧ s.keyLen.toNat ≤ s.config.keyMax ∧
      t = (s.writeMac s.counter).setValid (s.valid.setMac true) := by
  unfold runHmacCtr at h
  split at h
  · cases h
  · rename_i u hk
    cases h
    exact ⟨(checkKey_ok hk).1, (checkKey_ok hk).2, rfl⟩

theorem runTrunc_ok {s t : State} (h : runTrunc s = .ok t) :
    s.valid.mac = true ∧ ∃ d, digitCount s.digitSelector = .ok d ∧
      t = (s.writeCode s.macBytes d).setValid (s.valid.setCode true) := by
  unfold runTrunc at h
  split at h
  · cases h
  · rename_i hm
    split at h
    · cases h
    · rename_i d hd
      cases h
      exact ⟨by simpa using hm, d, hd, rfl⟩

theorem runGenHotp_ok {s t : State} (h : runGenHotp s = .ok t) :
    ∃ d, checkGenerate s = .ok d ∧ t = s.writeGenerated s.counter d := by
  unfold runGenHotp at h
  split at h
  · cases h
  · rename_i d hd
    cases h
    exact ⟨d, hd, rfl⟩

theorem runGenTotp_ok {s t : State} (h : runGenTotp s = .ok t) :
    ∃ d, checkGenerate s = .ok d ∧
      t = (s.writeGenerated (timeStep s.time) d).setCounter (timeStep s.time) := by
  unfold runGenTotp at h
  split at h
  · cases h
  · rename_i d hd
    cases h
    exact ⟨d, hd, rfl⟩

/-- The completion of the pending word: its command's, or ILLEGAL_CMD. -/
theorem completePending_cases (s : State) :
    (∃ i, decode s.pending = .ok i ∧ completePending s = .next (s.complete i (runCommand i s))) ∨
      (∃ r, decode s.pending = .error r ∧ completePending s = .next (s.fail .illegalCmd id)) := by
  unfold completePending
  cases h : decode s.pending with
  | ok i => exact .inl ⟨i, rfl, exec_eq i s⟩
  | error r => exact .inr ⟨r, rfl, rfl⟩

/-- Who moves in a step, and what it does. The schedule without its first turn is ts. -/
theorem step_cases (s : State) :
    (s.status.busy = true ∧ ∃ ts, ts = s.schedule.tail ∧ (s.schedule = [] ∨ s.schedule = .engine :: ts) ∧
        step s = completePending { s with schedule := ts }) ∨
      (s.status.busy = false ∧ ∃ ts, s.schedule = .engine :: ts ∧ step s = .next { s with schedule := ts }) ∨
      (∃ ts, ts = s.schedule.tail ∧ (s.schedule = [] ∧ s.status.busy = false ∨ s.schedule = .host :: ts) ∧
        step s = hostTurn { s with schedule := ts }) ∨
      (∃ ts, s.schedule = .reset :: ts ∧ step s = .next { s with schedule := ts }.resetBlock) := by
  cases hs : s.schedule with
  | nil =>
    have e : { s with schedule := [] } = s := by rw [← hs]
    cases hb : s.status.busy with
    | true => exact .inl ⟨rfl, [], rfl, .inl rfl, by simp [step, hs, hb, engineTurn, e]⟩
    | false => exact .inr (.inr (.inl ⟨[], rfl, .inl ⟨rfl, rfl⟩, by simp [step, hs, hb, e]⟩))
  | cons u ts =>
    cases u with
    | engine =>
      cases hb : s.status.busy with
      | true => exact .inl ⟨rfl, ts, rfl, .inr rfl, by simp [step, hs, hb, engineTurn]⟩
      | false => exact .inr (.inl ⟨rfl, ts, rfl, by simp [step, hs, hb, engineTurn]⟩)
    | host => exact .inr (.inr (.inl ⟨ts, rfl, .inr rfl, by simp [step, hs]⟩))
    | reset => exact .inr (.inr (.inr ⟨ts, rfl, by simp [step, hs]⟩))

/-- The host's turn: nothing without an operation, one access otherwise. -/
theorem hostTurn_next {s t : State} (h : hostTurn s = .next t) :
    (s.program = [] ∧ t = s) ∨
      (∃ op rest u, s.program = op :: rest ∧ hostAccess (accessOf op) { s with program := rest } = .next u ∧
        t = afterRead op u) := by
  unfold hostTurn at h
  split at h
  · rename_i e
    cases h
    exact .inl ⟨e, rfl⟩
  · rename_i op rest e
    unfold hostOp at h
    split at h
    · rename_i u hu
      cases h
      exact .inr ⟨op, rest, u, e, hu, rfl⟩
    · cases h
    · cases h

/-- What the loops of R47 add after a read changes the host's program alone. -/
theorem afterRead_eq (op : HostOp) (s : State) : ∃ p, afterRead op s = { s with program := p } := by
  cases op with
  | access a => exact ⟨s.program, rfl⟩
  | wait =>
    unfold afterRead
    dsimp only
    split
    · exact ⟨_, rfl⟩
    · exact ⟨s.program, rfl⟩
  | rdCode => exact ⟨_, rfl⟩

end Sys2Proof.Machine
end

