-- ==== Sys2Proof/Tests/Slice0.lean ====
section
/-! SUPPORT. The model's own tests: well-formedness, decoding from words written out bit by bit, one step per test with
expected values from spec/95_test_vectors.md, and for every statement with hypotheses a witness that meets them. -/

namespace Sys2Proof.Tests

-- Kernel evaluations one after another: side by side, each would hold a thread and its stack.
set_option Elab.async false

open Sys2Proof.Machine

/-! ## Helpers -/

/-- The state an outcome answers; the state after reset where it answers none. -/
def after : Host.Outcome State Fault Refusal → State
  | .next t => t
  | .fault _ => State.reset
  | .refused _ => State.reset

/-- The outcome is a next state. -/
def answers : Host.Outcome State Fault Refusal → Bool
  | .next _ => true
  | .fault _ => false
  | .refused _ => false

/-- The fault of an outcome. -/
def faultOf : Host.Outcome State Fault Refusal → Option Fault
  | .next _ => none
  | .fault f => some f
  | .refused _ => none

/-- The ASCII bytes of a text (R8). -/
def ascii (text : String) : List Byte := text.toList.map fun c => BitVec.ofNat 8 c.toNat

/-- Bytes from numbers. -/
def bytesOf (l : List Nat) : List Byte := l.map (BitVec.ofNat 8)

/-- The RFC key of 95_test_vectors.md. -/
def rfcKey : List Byte := ascii "12345678901234567890"

/-- The reset state with a secret written. -/
def withSecret (text : List Byte) : State :=
  { State.reset with secretLen := BitVec.ofNat 16 text.length }.storeBytes secretBase text

/-- The reset state with a key, a counter, a time and a digit selector written. -/
def withKey (key : List Byte) (counter time : Wide) (sel : BitVec 4) : State :=
  ({ State.reset with
      keyLen := BitVec.ofNat 16 key.length
      valid := { key := true, mac := false, code := false }
      timeHi := time.extractLsb' 32 32
      timeLo := time.extractLsb' 0 32
      digits := sel }.setCounter counter).storeBytes keyBase key

/-- The reset state with a MAC held. -/
def withMac (mac : List Byte) (sel : BitVec 4) : State :=
  { State.reset with valid := { key := false, mac := true, code := false }, digits := sel }.storeBytes macBase mac

/-- The RFC 4226 example MAC of TR-1. -/
def exampleMac : List Byte :=
  bytesOf [0x1f, 0x86, 0x98, 0x69, 0x0e, 0x02, 0xca, 0x16, 0x61, 0x85, 0x50, 0xef, 0x7f, 0x19, 0xda, 0x8e, 0x94, 0x5b,
    0x55, 0x5a]

/-- A busy block with command word w pending and a schedule. -/
def busyWith (w : Word) (ts : List Turn) : State := { State.reset.issue w with schedule := ts }

/-- The reset state with a host program. -/
def hosted (ops : List HostOp) : State := { State.reset with program := ops }

/-! ## Well-formedness: each check refuses an ill-formed term -/

theorem test_wf_config_zero_refused : ({ secretMax := 0 } : Config).wf = false := by decide
theorem test_wf_config_above_refused : ({ secretMax := 4097 } : Config).wf = false := by decide
theorem test_wf_config_bounds : ({ secretMax := 1 } : Config).wf = true ∧ ({ secretMax := 4096 } : Config).wf = true := by decide
theorem test_wf_word_reserved_bits_refused : commandWordWf 0x00000101#32 = false := by decide
theorem test_wf_word_opcode_zero_refused : commandWordWf 0x00000000#32 = false := by decide
theorem test_wf_word_opcode_six_refused : commandWordWf 0x00000006#32 = false := by decide
theorem test_wf_access_misaligned_read_refused : (Access.r32 0x0002#16).wf = false := by decide
theorem test_wf_access_misaligned_write_refused : (Access.w32 0x1001#16 0#32).wf = false := by decide
theorem test_wf_access_register_byte_write_refused : (Access.w8 0x000C#16 6#8).wf = false := by decide
theorem test_wf_access_other_width_refused :
    (Access.readOther 0x0000#16 16).wf = false ∧ (Access.writeOther 0x1000#16 16).wf = false := by decide
theorem test_wf_hostop_refused : (HostOp.access (.r32 0x0001#16)).wf = false := by decide

/-! ## Decoding: words written out from CMD32 (R42), RSV = 31:8 then OP = 7:0 -/

theorem test_decode_word_decode : decode 0b00000000000000000000000000000001#32 = .ok .decode := by rfl
theorem test_decode_word_hmacCtr : decode 0b00000000000000000000000000000010#32 = .ok .hmacCtr := by rfl
theorem test_decode_word_trunc : decode 0b00000000000000000000000000000011#32 = .ok .trunc := by rfl
theorem test_decode_word_genHotp : decode 0b00000000000000000000000000000100#32 = .ok .genHotp := by rfl
theorem test_decode_word_genTotp : decode 0b00000000000000000000000000000101#32 = .ok .genTotp := by rfl
theorem test_decode_enc9_reserved : decode 0b00000000000000000000000100000001#32 = .error .reservedBits := by rfl
theorem test_decode_enc8_unassigned : decode 0b00000000000000000000000011111111#32 = .error .unassignedOpcode := by rfl
theorem test_decodeTableWord : (List.range 7).map (decodeTableWord 32) =
    [none, some .decode, some .hmacCtr, some .trunc, some .genHotp, some .genTotp, none] := by decide

/-! ## Every row runs as the first command after reset -/

theorem test_fetched_words_run : [1, 2, 3, 4, 5].all (fun w =>
    answers (step (State.reset.withFetchWord 32 w)) &&
      !(after (step (State.reset.withFetchWord 32 w))).status.busy) = true := by decide +kernel

/-- GE-1, HM-23, TR-17 and DEC-12: the five commands right after reset. -/
theorem test_fetched_words_status :
    [1, 2, 3, 4, 5].map (fun w => (after (step (State.reset.withFetchWord 32 w))).status.toWord) =
      [0x002#32, 0x406#32, 0x606#32, 0x406#32, 0x406#32] := by decide +kernel

/-! ## The commands -/

/-- DEC-11. -/
theorem test_decode_drops_leading_zero_bytes :
    (after (exec .decode (withSecret (ascii "AAAAAAAAAEBAGBAF")))).keyBytes = bytesOf [1, 2, 3, 4, 5] := by
  decide +kernel

/-- DEC-31: an inner '='. -/
theorem test_decode_bad_char :
    (after (exec .decode (withSecret (ascii "AB=CD")))).status.toWord = 0x00000306#32 := by decide +kernel

/-- HM-1. -/
theorem test_hmacCtr_mac : beValue (after (exec .hmacCtr (withKey rfcKey 0#64 0#64 0#4))).macBytes =
    0xcc93cf18508d94934c64b65d8ba7667fb7cde4b0 := by decide +kernel

/-- HM-22. -/
theorem test_hmacCtr_length :
    (after (exec .hmacCtr { withKey [] 0#64 0#64 0#4 with keyLen := 257#16 })).status.toWord = 0x00000206#32 := by
  decide +kernel

/-- TR-1, its CODE buffer. -/
theorem test_trunc_code : (after (exec .trunc (withMac exampleMac 0#4))).codeBytes =
    bytesOf [0x38, 0x37, 0x32, 0x39, 0x32, 0x31, 0, 0, 0, 0, 0, 0, 0, 0, 0, 0] := by decide +kernel

/-- TR-16. -/
theorem test_trunc_digits_error :
    (after (exec .trunc (withMac exampleMac 11#4))).status.toWord = 0x00000506#32 := by decide +kernel

/-- GH-2: the counter is read, not written. -/
theorem test_genHotp_code : (after (exec .genHotp (withKey rfcKey 1#64 0#64 0#4))).codeBytes.take 6 =
    ascii "287082" := by decide +kernel

/-- GE-2. -/
theorem test_genHotp_length_before_digits :
    (after (exec .genHotp { withKey [] 0#64 0#64 15#4 with keyLen := 300#16 })).status.toWord = 0x00000206#32 := by
  decide +kernel

/-- GT-2, its code and the counter written back. -/
theorem test_genTotp_code :
    (after (exec .genTotp (withKey rfcKey 0#64 1111111109#64 8#4))).codeBytes.take 8 = ascii "07081804" := by
  decide +kernel

/-- CTR-6. -/
theorem test_timeStep_33_bits : timeStep 128849018880#64 = 0x100000000#64 := by decide +kernel

/-! ## Window and turns -/

/-- WIN-8. -/
theorem test_window_errcode_byte :
    ({ State.reset with status := Status.failed .badChar } : State).windowByte 0x0002 = 0x03#8 := by decide +kernel

/-- WIN-9. -/
theorem test_window_secret_word :
    (after (hostAccess (.w32 0x1000#16 0x4a425357#32) State.reset)).readBytes secretBase 4 = ascii "JBSW" := by
  decide +kernel

/-- WIN-10. -/
theorem test_window_beyond_capacity : (after (hostAccess (.w8 0x1100#16 0x41#8) State.reset)).mem = [] := by
  decide +kernel

/-- WIN-12, WIN-13. -/
theorem test_window_faults :
    faultOf (hostAccess (.w8 0x1000#16 0#8) (busyWith 1#32 [])) = some .hostHazard ∧
      faultOf (hostAccess (.r32 0x0002#16) State.reset) = some .access := by decide +kernel

/-- R47: RDCODE reads CODE_LEN, then that many bytes of CODE. -/
theorem test_rdCode_expands :
    (after (step { hosted [.rdCode] with codeLen := 2#4 })).program =
      [.access (.r8 0x0040#16), .access (.r8 0x0041#16)] := by decide +kernel

/-- R47: the expansion of a pseudo-operation. -/
theorem test_ldKey_expands : ldKey [0x0b#8] =
    [.access (.w8 0x2000#16 0x0b#8), .access (.w32 0x0024#16 0x00000001#32)] := by decide +kernel

/-! ## Witnesses: for each statement with hypotheses, inputs that meet them -/

theorem witness_DecodeAndEncodeAgree : (5 : Nat) < 2 ^ 32 := by decide

theorem witness_IllegalWordCompletesWithIllegalCmd :
    (0x00000101#32 : Word).toNat / 2 ^ 8 ≠ 0 ∧ (0x00000000#32 : Word).toNat % 2 ^ 8 = 0 ∧
      6 ≤ (0x00000006#32 : Word).toNat % 2 ^ 8 ∧ State.reset.status.busy = false ∧
      (busyWith 0x80000005#32 []).status.busy = true ∧ (busyWith 0x80000005#32 []).pending = 0x80000005#32 ∧
      EngineMovesNext (busyWith 0x80000005#32 []) [] :=
  ⟨by decide, by decide, by decide, rfl, rfl, rfl, .inr ⟨rfl, rfl⟩⟩

theorem witness_StepRunsTheDecodedCommand :
    (busyWith 3#32 [.engine]).status.busy = true ∧ EngineMovesNext (busyWith 3#32 [.engine]) [] ∧
      decode (busyWith 3#32 [.engine]).pending = .ok .trunc := ⟨rfl, .inl rfl, rfl⟩

theorem witness_FetchedWordRunsNext : decode 5#32 = .ok .genTotp := rfl

theorem witness_HostTurnPerformsTheNextAccess :
    HostMovesNext (hosted [.access (.r32 0#16)]) [] ∧
      (hosted [.access (.r32 0#16)]).program = .access (.r32 0#16) :: [] ∧
      HostMovesNext { busyWith 1#32 [.host] with program := [.access (.r32 0#16)] } [] :=
  ⟨.inr ⟨rfl, rfl, rfl⟩, rfl, .inl rfl⟩

theorem witness_WaitPollsStatusUntilIdle :
    HostMovesNext (hosted [.wait]) [] ∧ (hosted [.wait]).program = .wait :: [] ∧
      HostMovesNext { busyWith 1#32 [.host] with program := [.wait] } [] := ⟨.inr ⟨rfl, rfl, rfl⟩, rfl, .inl rfl⟩

theorem witness_RdCodeReadsTheLengthThenTheDigits :
    HostMovesNext (hosted [.rdCode]) [] ∧ (hosted [.rdCode]).program = .rdCode :: [] ∧
      (hosted [.rdCode]).status.busy = false ∧
      HostMovesNext { busyWith 1#32 [.host] with program := [.rdCode] } [] ∧ (busyWith 1#32 [.host]).status.busy = true :=
  ⟨.inr ⟨rfl, rfl, rfl⟩, rfl, rfl, .inl rfl, rfl⟩

theorem witness_PendingCommandCompletes :
    (busyWith 1#32 [.engine, .host]).status.busy = true ∧ EngineMovesNext (busyWith 1#32 [.engine, .host]) [.host] ∧
      ({ State.reset with schedule := [.engine] } : State).status.busy = false ∧
      ({ State.reset with schedule := [.engine] } : State).schedule = .engine :: [] := ⟨rfl, .inl rfl, rfl, rfl⟩

theorem witness_BusyPeriodEnds : (busyWith 1#32 [.host, .host]).status.busy = true := rfl

theorem witness_HostCannotChangeABusyBlock :
    ∃ t, (busyWith 1#32 [.host]).status.busy = true ∧ (busyWith 1#32 [.host]).schedule = .host :: [] ∧
      step { busyWith 1#32 [.host] with program := [.access (.r32 0#16)] } = .next t ∧ t.hostReads.length = 1 :=
  ⟨_, rfl, rfl, rfl, rfl⟩

theorem witness_ResetGivesTheResetValues : (busyWith 5#32 [.reset]).schedule = .reset :: [] := rfl

theorem witness_ResetDrawsSecretAndKeyAnew :
    (busyWith 5#32 [.reset]).schedule = .reset :: [] ∧ (busyWith 5#32 [.reset]).config.wf = true ∧
      WritableOffset (busyWith 5#32 [.reset]).config (0x1000#16 : Offset).toNat ∧
      WritableOffset (busyWith 5#32 [.reset]).config (0x20FF#16 : Offset).toNat :=
  ⟨rfl, by decide, .inl ⟨⟨by decide, by decide⟩, by decide⟩, .inr ⟨⟨by decide, by decide⟩, by decide⟩⟩

theorem reset_inv_holds : State.reset.Inv where
  config_wf := by decide
  memory_wf := rfl
  status_ok := ⟨by decide, by decide, by decide, by decide⟩
  mac_valid := fun h => by cases h
  code_valid := fun h => by cases h

theorem witness_StepKeepsTheInvariant :
    ∃ s t : State, s.Inv ∧ step s = .next t ∧ t.status.busy = true := by
  refine ⟨hosted [opCmd .genTotp], _, ?_, rfl, rfl⟩
  exact ⟨reset_inv_holds.config_wf, rfl, reset_inv_holds.status_ok, (fun h => by cases h), (fun h => by cases h)⟩

theorem witness_CanonicalCellsAreDetermined :
    Memory.wf Config.reference [(0x0040, 0x31#8), (0x1000, 0x00#8)] = true := by decide +kernel

theorem witness_CmdWriteIssuesACommand :
    State.reset.status.busy = false ∧ (busyWith 1#32 []).status.busy = true := ⟨rfl, rfl⟩

theorem witness_KeyLenWriteSetsKeyValid : State.reset.status.busy = false := rfl

theorem witness_OperandRegisterWritesReadBack : State.reset.status.busy = false := rfl

/-- The bounds of each reserved range of R30 at the reference capacity, and the byte before the SECRET one. -/
theorem witness_reserved_bounds :
    (∀ a ∈ [0x38, 0x3F, 0x58, 0x5F, 0x74, 0xFFF, 0x1100, 0x1FFF, 0x2100, 0x2FFF, 0x3000, 0xFFFF],
      ReservedOffset Config.reference a) ∧ ¬ReservedOffset Config.reference 0x10FF := by
  unfold ReservedOffset between
  decide +kernel

/-- The bounds of each read-only range of R30; CMD is not one. -/
theorem witness_readOnly_bounds :
    (∀ a ∈ [0x00, 0x03, 0x08, 0x0B, 0x28, 0x37, 0x40, 0x4F, 0x50, 0x57, 0x60, 0x73], ReadOnlyOffset a) ∧
      ¬ReadOnlyOffset 0x04 := by
  unfold ReadOnlyOffset between
  decide +kernel

theorem witness_ReservedAndReadOnlyOffsets :
    State.reset.config.wf = true ∧ State.reset.status.busy = false ∧ ReservedOffset State.reset.config 0xFFFF ∧
      ReadOnlyOffset 0x73 ∧ (0x003C#16 : Offset).toNat % 4 = 0 ∧
      (∀ k, k < 4 → ReservedOffset State.reset.config (0x3C + k)) ∧ (∀ k, k < 4 → ReadOnlyOffset (0x70 + k)) :=
  ⟨by decide, rfl, witness_reserved_bounds.1 _ (by decide), witness_readOnly_bounds.1 _ (by decide), by decide,
    by unfold ReservedOffset between; decide +kernel, by unfold ReadOnlyOffset between; decide +kernel⟩

theorem witness_AccessSideEffects :
    ∃ t u w, hostAccess (.r8 0x0060#16) State.reset = .next t ∧ hostAccess (.w8 0x10FF#16 7#8) State.reset = .next u ∧
      hostAccess (.w32 0x0010#16 7#32) State.reset = .next w ∧ (Access.r8 0x0060#16).isWrite = false ∧
      (Access.w8 0x10FF#16 7#8).isWrite = true ∧ (∀ v, Access.w8 0x10FF#16 7#8 ≠ .w32 0x0004#16 v) ∧
      (0x0010#16 : Offset) ≠ 0x0004#16 ∧ (0x0010#16 : Offset) ≠ 0x0024#16 ∧
      State.reset.mem.wf State.reset.config = true ∧ State.reset.config.wf = true :=
  ⟨_, _, _, rfl, rfl, rfl, rfl, rfl, (fun _ h => by cases h), by decide, by decide, rfl, by decide⟩

/-- A block of capacity 6: SECRET and KEY end inside a word. -/
def ragged : State := { State.reset with config := { secretMax := 6 } }

theorem witness_WordReadIsFourByteReads :
    State.reset.status.busy = false ∧ (0x0000#16 : Offset).toNat % 4 = 0 ∧ (0xFFFC#16 : Offset).toNat % 4 = 0 ∧
      (0x0028#16, 0#32) ∈ State.reset.registerValues ∧ ReadOnlyOffset ((0x0070#16 : Offset).toNat + 3) ∧
      ragged.status.busy = false ∧ ragged.config.wf = true ∧ (0x1004#16 : Offset).toNat % 4 = 0 ∧
      WritableOffset ragged.config ((0x1004#16 : Offset).toNat + 1) ∧
      ReservedOffset ragged.config ((0x1004#16 : Offset).toNat + 2) := by
  unfold ReadOnlyOffset WritableOffset ReservedOffset between
  decide +kernel

theorem witness_IdleReadsReturnWhatIsHeld :
    State.reset.status.busy = false ∧ (0x0000#16, 0#32) ∈ State.reset.registerValues ∧
      (0x0034#16, 0x01000100#32) ∈ State.reset.registerValues ∧ (0x004F#16 : Offset).toNat = 0x0040 + 15 ∧
      (0x0057#16 : Offset).toNat = 0x0050 + 7 ∧ (0x0073#16 : Offset).toNat = 0x0060 + 19 ∧
      1 < (withSecret (ascii "AB")).secretLen.toNat ∧
      (withSecret (ascii "AB")).secretLen.toNat ≤ (withSecret (ascii "AB")).config.secretMax ∧
      (0x1001#16 : Offset).toNat = 0x1000 + 1 ∧ 19 < (withKey rfcKey 0#64 0#64 0#4).keyLen.toNat ∧
      (withKey rfcKey 0#64 0#64 0#4).keyLen.toNat ≤ (withKey rfcKey 0#64 0#64 0#4).config.keyMax ∧
      (0x2013#16 : Offset).toNat = 0x2000 + 19 ∧ WritableOffset State.reset.config (0x20FF#16 : Offset).toNat := by
  unfold WritableOffset between
  decide +kernel

theorem witness_BufferWritesStoreTheirBytes :
    State.reset.config.wf = true ∧ State.reset.status.busy = false ∧ WritableOffset State.reset.config 0x10FF ∧
      (0x20FC#16 : Offset).toNat % 4 = 0 ∧
      (∀ k, k < 4 → WritableOffset State.reset.config ((0x20FC#16 : Offset).toNat + k)) ∧
      ¬WritableOffset State.reset.config 0x1100 := by
  unfold WritableOffset between
  decide +kernel

/-- The clause on a word across the capacity. -/
theorem witness_BufferWritesStoreTheirBytes_across :
    ragged.config.wf = true ∧ ragged.status.busy = false ∧ (0x2004#16 : Offset).toNat % 4 = 0 ∧
      (∀ k, k < 4 → WritableOffset ragged.config ((0x2004#16 : Offset).toNat + k) ∨
        ReservedOffset ragged.config ((0x2004#16 : Offset).toNat + k)) ∧
      WritableOffset ragged.config 0x2005 ∧ ¬WritableOffset ragged.config 0x2006 := by
  refine ⟨by decide, rfl, by decide, fun k hk => ?_, ?_, ?_⟩ <;>
    simp [WritableOffset, ReservedOffset, between, ragged, Config.keyMax]
  omega

theorem witness_ReadsWhileBusy :
    (busyWith 1#32 []).status.busy = true ∧ (0x0003#16 : Offset).toNat = 0x0000 + 3 ∧
      (0x0037#16 : Offset).toNat = 0x0034 + 3 ∧ (0x0060#16 : Offset).toNat % 4 = 0 ∧
      (0x0060#16 : Offset) ≠ 0x0000#16 ∧ (0x0060#16 : Offset) ≠ 0x0034#16 ∧ (0x0038#16 : Offset).toNat / 4 ≠ 0x00 ∧
      (0x0038#16 : Offset).toNat / 4 ≠ 0x0D := by decide

theorem witness_CapsIsConstant :
    ∃ t, State.reset.config.wf = true ∧ step (busyWith 1#32 [.reset]) = .next t ∧ State.reset.status.busy = false :=
  ⟨_, by decide, rfl, rfl⟩

theorem witness_HostThatWaitsNeverStopsTheMachine :
    (hosted [opCmd .trunc, .wait, .rdCode]).status.busy = false ∧
      (∀ op ∈ (hosted [opCmd .trunc, .wait, .rdCode]).program, op.wf = true) ∧
      waitsAfterCmd (hosted [opCmd .trunc, .wait, .rdCode]).program = true := by decide +kernel

/-- A busy block whose host waits first. -/
theorem witness_HostWaits : State.HostWaits { busyWith 5#32 [.host, .reset] with program := [.wait, opCmd .trunc, .wait] } :=
  ⟨by decide +kernel, by decide +kernel, fun _ => rfl⟩

/-- Every command can fail. -/
theorem witness_FailedCommandWritesOnlyStatusAndValid :
    (∀ i ∈ [Instr.hmacCtr, .trunc, .genHotp, .genTotp], (after (exec i State.reset)).status.err = true ∧
      answers (exec i State.reset) = true) ∧
      (after (exec .decode (withSecret (ascii "123")))).status.err = true ∧
      (∀ i, decode (busyWith 6#32 []).pending ≠ .ok i) :=
  ⟨by decide +kernel, by decide +kernel, fun i h => by cases h⟩

/-- Each clause's conditions hold somewhere. -/
theorem witness_FirstFailingCheckIsReported :
    ({ State.reset with secretLen := 257#16 } : State).config.secretMax < (257#16 : BitVec 16).toNat ∧
      isHex (withSecret (ascii "123")).secretBytes = false ∧
      (∃ c ∈ strip (withSecret (ascii "123")).secretBytes, b32Val c = none) ∧
      isHex (withSecret (ascii "AB")).secretBytes = true ∧
      (∀ c ∈ strip (withSecret (ascii "GE")).secretBytes, b32Val c ≠ none) ∧ State.reset.valid.key = false ∧
      (withKey rfcKey 0#64 0#64 11#4).valid.key = true ∧
      (withKey rfcKey 0#64 0#64 11#4).keyLen.toNat ≤ (withKey rfcKey 0#64 0#64 11#4).config.keyMax ∧
      11 ≤ (withKey rfcKey 0#64 0#64 11#4).digits.toNat ∧ Config.reference.keyMax < (300#16 : BitVec 16).toNat ∧
      (withMac exampleMac 11#4).valid.mac = true ∧ (withMac exampleMac 10#4).digits.toNat ≤ 10 := by decide +kernel

theorem witness_KeyValidIsSetOnlyByKeyLenOrDecode :
    (∃ t, step (hosted [.access (.w32 0x0024#16 5#32)]) = .next t ∧ t.valid.key = true) ∧
      (∃ t, step (busyWith 1#32 []) = .next t ∧ t.valid.key = true) ∧ State.reset.valid.key = false :=
  ⟨⟨_, rfl, rfl⟩, ⟨_, rfl, by decide +kernel⟩, rfl⟩

/-- Every change the statement speaks of occurs: both bits set, each bit cleared by a failing command and by reset. -/
theorem witness_ValidBitsChangeOnlyAsTheTableSays :
    (after (step ((withKey rfcKey 0#64 0#64 0#4).issue 2#32))).valid.mac = true ∧
      (withKey rfcKey 0#64 0#64 0#4).valid.mac = false ∧
      (after (step ((withMac exampleMac 0#4).issue 3#32))).valid.code = true ∧
      (withMac exampleMac 0#4).valid.code = false ∧
      (after (step { (withSecret (ascii "1")).issue 1#32 with valid := ⟨true, true, true⟩ })).valid.key = false ∧
      (after (step { busyWith 4#32 [] with valid := ⟨false, true, true⟩ })).valid = ⟨false, false, false⟩ ∧
      (after (step { busyWith 1#32 [.reset] with valid := ⟨true, true, true⟩ })).valid = ⟨false, false, false⟩ := by
  decide +kernel

theorem witness_ResultsChangeOnlyAtACompletion :
    ∃ t, step { (withMac exampleMac 0#4).issue 3#32 with schedule := [] } = .next t ∧
      ¬(SameMac { (withMac exampleMac 0#4).issue 3#32 with schedule := [] } t ∧
        SameCode { (withMac exampleMac 0#4).issue 3#32 with schedule := [] } t) :=
  ⟨_, rfl, fun h => absurd h.2.2.2.1 (by decide +kernel)⟩

theorem witness_CharacterClasses : isHexDigit 0x66#8 = true ∧ b32Val 0x37#8 ≠ none := by decide +kernel

theorem witness_HexPathDecodesPairs :
    2 ≤ (ascii "aBcD").length ∧ (ascii "aBcD").length % 2 = 0 ∧ ∀ c ∈ ascii "aBcD", isHexDigit c = true := by
  decide +kernel

theorem witness_HexRenderingDecodesBack : [0x00#8, 0xFF#8] ≠ ([] : List Byte) := by decide

/-- Also the shortest input, one with all its bits dropped, and digits of odd length. -/
theorem witness_Base32PathIsTheShortestRendering :
    (strip (ascii "MZXW 6==")).map b32Val = [12, 25, 23, 22, 30].map some ∧ (∃ c ∈ ascii "MZXW 6==", isHexDigit c = false) ∧
      (strip []).map b32Val = ([] : List Nat).map some ∧ (strip (ascii "A")).map b32Val = [0].map some ∧
      (ascii "A").length < 2 ∧ (strip (ascii "ABC")).map b32Val = [0, 1, 2].map some ∧ (ascii "ABC").length % 2 ≠ 0 := by
  decide +kernel

theorem witness_BadCharExactlyOnAnInvalidCharacter :
    (∃ c ∈ ascii "not-valid-!!", isHexDigit c = false) ∧ decodeSecret (ascii "not-valid-!!") = .error .badChar ∧
      (ascii "123").length % 2 ≠ 0 ∧ (∃ c ∈ strip (ascii "123"), b32Val c = none) :=
  ⟨by decide +kernel, rfl, by decide +kernel, by decide +kernel⟩

theorem witness_DecodedKeyFitsTheSecret : decodeSecret (ascii "AB") = .ok [0xAB#8] := rfl

theorem witness_DecodeWritesTheKey :
    (withSecret (ascii "AB")).config.wf = true ∧
      (withSecret (ascii "AB")).secretLen.toNat ≤ (withSecret (ascii "AB")).config.secretMax ∧
      decodeSecret (withSecret (ascii "AB")).secretBytes = .ok [0xAB#8] :=
  ⟨by decide, by decide +kernel, rfl⟩

theorem witness_PaddingAndParsing : (zeros 64).length = 64 := by decide

theorem witness_CompressionFollowsTheRounds :
    (zeros 64).length = 64 ∧ (19 : Nat) ≤ 19 ∧ (20 : Nat) ≤ 39 ∧ (40 : Nat) ≤ 59 ∧ (79 : Nat) ≤ 79 ∧ (30 : Nat) < 32 := by
  decide

theorem witness_HmacKeyPreparation :
    rfcKey.length + 44 ≤ 64 ∧ 64 < (zeros 65).length ∧ (zeros 64).length ≤ 64 := by decide +kernel

theorem witness_HmacCompressionCalls :
    (zeros 8).length = 8 ∧ (zeros 64).length ≤ 64 ∧ 64 < (zeros 65).length := by decide

theorem witness_HmacCtrWritesMsgAndMac :
    (withKey rfcKey 0#64 0#64 0#4).valid.key = true ∧
      (withKey rfcKey 0#64 0#64 0#4).keyLen.toNat ≤ (withKey rfcKey 0#64 0#64 0#4).config.keyMax := by decide +kernel

theorem witness_TruncationReadsTheSelectedBytes : exampleMac.length = 20 := by decide

theorem witness_TruncWritesTheCode :
    (withMac exampleMac 10#4).valid.mac = true ∧ (withMac exampleMac 10#4).SelectsDigits 10 ∧
      (withMac exampleMac 0#4).SelectsDigits 6 := by
  unfold State.SelectsDigits
  decide +kernel

/-- Serves GenHotpWritesTheChain, GenTotpWritesTheChainAndTheCounter, GenHotpIsHmacCtrThenTrunc and, with COUNTER 0x1,
GenTotpIsGenHotpAtTheTimeStep. -/
theorem witness_GenHotpWritesTheChain :
    (withKey rfcKey 1#64 59#64 0#4).valid.key = true ∧
      (withKey rfcKey 1#64 59#64 0#4).keyLen.toNat ≤ (withKey rfcKey 1#64 59#64 0#4).config.keyMax ∧
      (withKey rfcKey 1#64 59#64 0#4).SelectsDigits 6 := by
  unfold State.SelectsDigits
  decide +kernel

theorem witness_GenTotpWritesTheChainAndTheCounter :
    (withKey rfcKey 0#64 59#64 10#4).valid.key = true ∧
      (withKey rfcKey 0#64 59#64 10#4).keyLen.toNat ≤ (withKey rfcKey 0#64 59#64 10#4).config.keyMax ∧
      (withKey rfcKey 0#64 59#64 10#4).SelectsDigits 10 := by
  unfold State.SelectsDigits
  decide +kernel

theorem witness_FlagWordsHoldTheirFields : State.reset.status.busy = false := rfl

theorem witness_DigitCountOfASelector : (1 : Nat) ≤ 10 ∧ (10 : Nat) ≤ 10 ∧ (11 : Nat) ≤ 15 := by decide

theorem witness_CodeIsTheDecimalRendering : (1 : Nat) ≤ 10 ∧ (10 : Nat) ≤ 10 := by decide

theorem witness_GenHotpIsHmacCtrThenTrunc :
    (withKey rfcKey 1#64 59#64 0#4).valid.key = true ∧
      (withKey rfcKey 1#64 59#64 0#4).keyLen.toNat ≤ (withKey rfcKey 1#64 59#64 0#4).config.keyMax ∧
      (withKey rfcKey 1#64 59#64 0#4).SelectsDigits 6 := witness_GenHotpWritesTheChain

theorem witness_GenTotpIsGenHotpAtTheTimeStep :
    (withKey rfcKey 1#64 59#64 0#4).valid.key = true ∧
      (withKey rfcKey 1#64 59#64 0#4).keyLen.toNat ≤ (withKey rfcKey 1#64 59#64 0#4).config.keyMax ∧
      (withKey rfcKey 1#64 59#64 0#4).SelectsDigits 6 ∧
      (0#32 : Word).toNat * 2 ^ 32 + (1#32 : Word).toNat =
        ((withKey rfcKey 1#64 59#64 0#4).timeHi.toNat * 2 ^ 32 + (withKey rfcKey 1#64 59#64 0#4).timeLo.toNat) / 30 :=
  ⟨witness_GenHotpWritesTheChain.1, witness_GenHotpWritesTheChain.2.1, witness_GenHotpWritesTheChain.2.2,
    by decide +kernel⟩

/-- For each command two states that differ in a register it does not read, and agree in its operands. -/
theorem witness_ResultsDependOnOperandsAlone :
    (withKey rfcKey 1#64 0#64 0#4).config.wf = true ∧
      SameOperands .decode (withSecret (ascii "AB")) { withSecret (ascii "AB") with timeHi := 1#32 } ∧
      SameOperands .hmacCtr (withKey rfcKey 1#64 0#64 0#4) { withKey rfcKey 1#64 0#64 0#4 with digits := 9#4 } ∧
      SameOperands .trunc (withMac exampleMac 0#4) { withMac exampleMac 0#4 with counterHi := 1#32 } ∧
      SameOperands .genHotp (withKey rfcKey 1#64 0#64 0#4) { withKey rfcKey 1#64 0#64 0#4 with timeHi := 1#32 } ∧
      SameOperands .genTotp (withKey rfcKey 1#64 0#64 0#4) { withKey rfcKey 1#64 0#64 0#4 with counterLo := 7#32 } := by
  simp only [SameOperands, SameKey]
  decide +kernel

theorem witness_RepeatedCommandLeavesTheSameState :
    ∃ t, (withSecret (ascii "AB")).config.wf = true ∧
      (withSecret (ascii "AB")).mem.wf (withSecret (ascii "AB")).config = true ∧
      exec .decode (withSecret (ascii "AB")) = .next t :=
  ⟨_, by decide, by decide +kernel, rfl⟩

end Sys2Proof.Tests
end

section
/-! PROOF. The canonical form of the cells (10_state.md R28; log entry 14). -/

namespace Sys2Proof.Machine

/-- A list whose cells all lie above an offset lists nothing up to that offset. -/
theorem Memory.lookup_eq_none_of_above {m : Memory} {a a' : Nat} (h : m.above a = true) (le : a' ≤ a) :
    m.lookup a' = none := by
  induction m with
  | nil => rfl
  | cons x m ih =>
    obtain ⟨x, y⟩ := x
    simp only [Memory.above, List.all_cons, Bool.and_eq_true, decide_eq_true_eq] at h ih
    obtain ⟨lt, rest⟩ := h
    have ne : x ≠ a' := by omega
    simpa [Memory.lookup, ne] using ih rest

/-- A canonical list lists nothing below its first cell. -/
theorem Memory.lookup_eq_none_of_lt_head {c : Config} {x : Host.Cell} {m : Memory} {a : Nat}
    (h : Memory.wf c (x :: m) = true) (lt : a < x.1) : Memory.lookup (x :: m) a = none := by
  simp only [Memory.wf, Bool.and_eq_true] at h
  obtain ⟨⟨-, hab⟩, -⟩ := h
  have ne : x.1 ≠ a := by omega
  simpa [Memory.lookup, ne] using Memory.lookup_eq_none_of_above hab (Nat.le_of_lt lt)

theorem Memory.lookup_head (x : Host.Cell) (m : Memory) : Memory.lookup (x :: m) x.1 = some x.2 := by
  simp [Memory.lookup]

/-- In a canonical list the first offset is listed once, so the rest of the list answers every other one. -/
theorem Memory.lookup_tail {c : Config} {x : Host.Cell} {m : Memory} (h : Memory.wf c (x :: m) = true) (a : Nat) :
    m.lookup a = if a = x.1 then none else Memory.lookup (x :: m) a := by
  simp only [Memory.wf, Bool.and_eq_true] at h
  obtain ⟨⟨-, hab⟩, -⟩ := h
  split
  · next e => exact Memory.lookup_eq_none_of_above hab (Nat.le_of_eq e)
  · next ne => simp [Memory.lookup, Ne.symm ne]

/-- Two canonical lists with the same bytes have no first cell below the other's. -/
theorem Memory.head_not_lt {c : Config} {x x' : Host.Cell} {m m' : Memory} (h' : Memory.wf c (x' :: m') = true)
    (eq : ∀ a, Memory.lookup (x :: m) a = Memory.lookup (x' :: m') a) : ¬x.1 < x'.1 := fun lt => by
  have hx := eq x.1
  rw [Memory.lookup_head, Memory.lookup_eq_none_of_lt_head h' lt] at hx
  cases hx

/-- The bytes a canonical list gives determine it. -/
theorem Memory.ext_of_wf {c : Config} {m m' : Memory} (h : m.wf c = true) (h' : m'.wf c = true)
    (eq : ∀ a, m.lookup a = m'.lookup a) : m = m' := by
  induction m generalizing m' with
  | nil =>
    cases m' with
    | nil => rfl
    | cons x' m' => simpa [Memory.lookup] using eq x'.1
  | cons x m ih =>
    cases m' with
    | nil => simpa [Memory.lookup] using eq x.1
    | cons x' m' =>
      have lower : ¬x.1 < x'.1 := Memory.head_not_lt h' eq
      have upper : ¬x'.1 < x.1 := Memory.head_not_lt h fun a => (eq a).symm
      have off : x.1 = x'.1 := by omega
      have byte : x.2 = x'.2 := by
        have hx := eq x.1
        rw [Memory.lookup_head, off, Memory.lookup_head] at hx
        exact Option.some.inj hx
      have rest : m = m' := by
        refine ih ?_ ?_ fun a => by rw [Memory.lookup_tail h, Memory.lookup_tail h', off, eq a]
        · simp only [Memory.wf, Bool.and_eq_true] at h
          exact h.2
        · simp only [Memory.wf, Bool.and_eq_true] at h'
          exact h'.2
      rw [Prod.ext off byte, rest]

/-- Settles O17: the first cells agree, since neither can lie below the other, and so on down the lists. -/
theorem canonicalCellsAreDetermined : Obligations.CanonicalCellsAreDetermined :=
  fun _ _ _ h h' eq => Memory.ext_of_wf h h' eq

end Sys2Proof.Machine
end

section
/-! PROOF. Register accesses through the window (10_state.md R15 to R26; 20_memory.md R30 to R32;
70_reset_and_hazards.md R94). -/

namespace Sys2Proof.Machine

/-! ## Words and their fields -/

/-- The value of two bit vectors side by side, in plain arithmetic. -/
theorem toNat_append_mul {n m : Nat} (x : BitVec n) (y : BitVec m) : (x ++ y).toNat = x.toNat * 2 ^ m + y.toNat := by
  rw [BitVec.toNat_append, ← Nat.shiftLeft_add_eq_or_of_lt y.isLt, Nat.shiftLeft_eq]

/-- The word of STATUS, field by field (R15). -/
theorem Status.toWord_toNat (st : Status) :
    st.toWord.toNat = st.busy.toNat + 2 * st.done.toNat + 4 * st.err.toNat + 256 * st.errCode.toNat := by
  simp only [Status.toWord, toNat_append_mul, BitVec.toNat_ofBool, BitVec.toNat_ofNat]
  omega

/-- STATUS at issue reads BUSY alone (R15). -/
theorem Status.issued_toWord : Status.issued.toWord = 0x00000001#32 := by decide

/-- The word of VALID, field by field (R20). -/
theorem Valid.toWord_toNat (v : Valid) :
    v.toWord.toNat = v.key.toNat + 2 * v.mac.toNat + 4 * v.code.toNat := by
  simp only [Valid.toWord, toNat_append_mul, BitVec.toNat_ofBool, BitVec.toNat_ofNat]
  omega

/-- CAPS is SECRET_MAX and KEY_MAX, sixteen bits each (R24). -/
theorem capsWord_toNat {c : Config} (h : c.wf = true) :
    (capsWord c).toNat = c.keyMax * 2 ^ 16 + c.secretMax := by
  simp only [Config.wf, Bool.and_eq_true, decide_eq_true_eq] at h
  have small : c.secretMax < 2 ^ 16 := by omega
  rw [capsWord, toNat_append_mul, BitVec.toNat_ofNat, BitVec.toNat_ofNat, Nat.mod_eq_of_lt small,
    Nat.mod_eq_of_lt (show c.keyMax < 2 ^ 16 from small)]

/-- The low bits of a word, kept by a mask and by a narrower register alike. -/
theorem setWidth_extractLsb'_eq_and (v : Word) (n : Nat) (h : n ≤ 32) :
    (v.extractLsb' 0 n).setWidth 32 = v &&& BitVec.ofNat 32 (2 ^ n - 1) := by
  apply BitVec.eq_of_toNat_eq
  have := Nat.pow_le_pow_right (show 0 < 2 by omega) h
  simp only [BitVec.toNat_setWidth, BitVec.extractLsb'_toNat, BitVec.toNat_and, BitVec.toNat_ofNat, Nat.shiftRight_zero]
  have pos := Nat.two_pow_pos n
  rw [Nat.mod_eq_of_lt (show 2 ^ n - 1 < 2 ^ 32 by omega), Nat.and_two_pow_sub_one_eq_mod]
  exact Nat.mod_eq_of_lt (by have := Nat.mod_lt v.toNat pos; omega)

/-- Byte k of a word in the window's big-endian order, as a number (R31). -/
theorem wordByte_eq_ofNat (w : Word) {k : Nat} (h : k < 4) :
    wordByte w k = BitVec.ofNat 8 (w.toNat / 256 ^ (3 - k)) := by
  have pow : 256 ^ (3 - k) = 2 ^ (24 - 8 * k) := by
    rw [show 24 - 8 * k = 8 * (3 - k) by omega, Nat.pow_mul]
  rw [pow, ← Nat.shiftRight_eq_div_pow]
  rfl

/-! ## One access of a register -/

/-- A register stands at an aligned offset below 0x0040 (R30). -/
theorem regAt_aligned {a : Nat} {r : Reg} (h : regAt a = some r) : a < 0x40 ∧ a % 4 = 0 := by
  have := regAt_some h
  simp only [List.mem_cons, Prod.mk.injEq, List.not_mem_nil, or_false] at this
  omega

/-- A read whose value is defined records it (R94). -/
theorem State.hostRead_defined {s : State} {off : Offset} (v : ReadValue) (free : Word → ReadValue)
    (h : s.status.busy = false ∨ readableWhileBusy off.toNat = true) : s.hostRead off v free = s.record off v := by
  obtain e | ⟨hb, hr, -⟩ := s.hostRead_cases off v free
  · exact e
  · simp [hb, hr] at h

/-- A read in a busy block of an offset outside STATUS and CAPS records a free value (R94). -/
theorem State.hostRead_free {s : State} {off : Offset} (v : ReadValue) (free : Word → ReadValue)
    (hb : s.status.busy = true) (hr : readableWhileBusy off.toNat = false) :
    s.hostRead off v free = { s.record off (free (Config.freeRead s.draws)) with draws := s.draws + 1 } := by
  simp [State.hostRead, hb, hr]

theorem State.windowWord_reg (s : State) {a : Nat} {r : Reg} (h : regAt a = some r) :
    s.windowWord a = s.readReg r := by
  simp [State.windowWord, State.regWord, h, (regAt_aligned h).1]

theorem State.windowByte_reg (s : State) {a k : Nat} {r : Reg} (h : regAt a = some r) (hk : k < 4) :
    s.windowByte (a + k) = wordByte (s.readReg r) k := by
  obtain ⟨lt, al⟩ := regAt_aligned h
  have base : (a + k) / 4 * 4 = a := by omega
  have byte : (a + k) % 4 = k := by omega
  simp [State.windowByte, State.regWord, base, byte, h, show a + k < 64 by omega]

/-- A 32-bit read of a register, where its value is defined, records the register's word. -/
theorem hostAccess_r32_reg {s : State} {off : Offset} {r : Reg} (hr : regAt off.toNat = some r)
    (h : s.status.busy = false ∨ readableWhileBusy off.toNat = true) :
    hostAccess (.r32 off) s = .next (s.record off (.word (s.readReg r))) := by
  rw [hostAccess, if_pos (regAt_aligned hr).2, State.hostRead_defined _ _ h, State.windowWord_reg s hr]

/-- An 8-bit read of byte k of a register, where its value is defined, records that byte of the register's word. -/
theorem hostAccess_r8_reg {s : State} {off : Offset} {a k : Nat} {r : Reg} (hr : regAt a = some r) (hk : k < 4)
    (ho : off.toNat = a + k) (h : s.status.busy = false ∨ readableWhileBusy off.toNat = true) :
    hostAccess (.r8 off) s = .next (s.record off (.byte (BitVec.ofNat 8 ((s.readReg r).toNat / 256 ^ (3 - k))))) := by
  rw [hostAccess, State.hostRead_defined _ _ h, ho, State.windowByte_reg s hr hk, wordByte_eq_ofNat _ hk]

/-- A 32-bit write of a register in an idle block is that register's write. -/
theorem hostAccess_w32_reg {s : State} {off : Offset} {r : Reg} (v : Word) (hr : regAt off.toNat = some r)
    (hb : s.status.busy = false) : hostAccess (.w32 off v) s = .next (s.writeReg r v) := by
  obtain ⟨lt, al⟩ := regAt_aligned hr
  simp [hostAccess, hb, al, State.hostStoreWord, lt, hr]

/-- Settles O18: the write of CMD is the issue, and CMD itself holds nothing to read. -/
theorem cmdWriteIssuesACommand : Obligations.CmdWriteIssuesACommand := fun s w => by
  refine ⟨fun idle => ⟨⟨s.issue w, ?_, rfl, Status.issued_toWord, rfl⟩, ?_⟩, fun busy => ?_⟩
  · exact hostAccess_w32_reg (r := .cmd) w rfl idle
  · exact hostAccess_r32_reg (r := .cmd) rfl (.inl idle)
  · simp [hostAccess, busy]

/-- Settles O19: the write of the KEY_LEN register, in any idle block. -/
theorem keyLenWriteSetsKeyValid : Obligations.KeyLenWriteSetsKeyValid := fun s v idle => by
  refine ⟨s.writeReg .keyLen v, hostAccess_w32_reg v rfl idle, ?_, rfl, rfl⟩
  simp [State.writeReg]

/-- A register that takes a write and keeps BUSY reads back, through the window, what it then holds. -/
theorem hostAccess_readBack {s : State} {off : Offset} {r : Reg} {v w : Word} (hr : regAt off.toNat = some r)
    (hb : s.status.busy = false) (keep : (s.writeReg r v).status = s.status) (hw : (s.writeReg r v).readReg r = w) :
    hostAccess (.w32 off v) s = .next (s.writeReg r v) ∧
      hostAccess (.r32 off) (s.writeReg r v) = .next ((s.writeReg r v).record off (.word w)) := by
  refine ⟨hostAccess_w32_reg v hr hb, ?_⟩
  rw [hostAccess_r32_reg hr (.inl (by rw [keep, hb])), hw]

/-- Settles O20: each operand register's write, read back; the two narrow ones drop their reserved bits. -/
theorem operandRegisterWritesReadBack : Obligations.OperandRegisterWritesReadBack := fun s v idle => by
  have digits : (s.writeReg .digits v).readReg .digits = v &&& 0x0000000F#32 :=
    setWidth_extractLsb'_eq_and v 4 (by decide)
  have secretLen : (s.writeReg .secretLen v).readReg .secretLen = v &&& 0x0000FFFF#32 :=
    setWidth_extractLsb'_eq_and v 16 (by decide)
  refine ⟨?_, ?_, ?_, ?_, ?_, ?_⟩
  · obtain ⟨write, read⟩ := hostAccess_readBack (off := 0x000C#16) rfl idle rfl digits
    exact ⟨_, write, rfl, digits, read⟩
  · obtain ⟨write, read⟩ := hostAccess_readBack (off := 0x0010#16) (v := v) rfl idle rfl rfl
    exact ⟨_, write, rfl, rfl, read⟩
  · obtain ⟨write, read⟩ := hostAccess_readBack (off := 0x0014#16) (v := v) rfl idle rfl rfl
    exact ⟨_, write, rfl, rfl, read⟩
  · obtain ⟨write, read⟩ := hostAccess_readBack (off := 0x0018#16) (v := v) rfl idle rfl rfl
    exact ⟨_, write, rfl, rfl, read⟩
  · obtain ⟨write, read⟩ := hostAccess_readBack (off := 0x001C#16) (v := v) rfl idle rfl rfl
    exact ⟨_, write, rfl, rfl, read⟩
  · obtain ⟨write, read⟩ := hostAccess_readBack (off := 0x0020#16) rfl idle rfl secretLen
    exact ⟨_, write, rfl, secretLen, read⟩

/-- STATUS and CAPS are the words whose value is defined in a busy block (R94). -/
theorem readableWhileBusy_eq_false {a : Nat} (hs : a / 4 ≠ 0x00) (hc : a / 4 ≠ 0x0D) :
    readableWhileBusy a = false := by
  simp [readableWhileBusy, hs, hc]

theorem readableWhileBusy_word {a k : Nat} (h : a = 0x00 ∨ a = 0x34) (hk : k < 4) :
    readableWhileBusy (a + k) = true := by
  simp only [readableWhileBusy, Bool.or_eq_true, decide_eq_true_eq]
  omega

/-- Settles O27: STATUS and CAPS are defined in a busy block, as words and as bytes; any other read is a free value. -/
theorem readsWhileBusy : Obligations.ReadsWhileBusy := fun s off busy => by
  refine ⟨?_, ?_, ?_, ?_, ?_, ?_⟩
  · exact hostAccess_r32_reg (r := .status) rfl (.inr rfl)
  · exact hostAccess_r32_reg (r := .caps) rfl (.inr rfl)
  · exact fun k hk ho => hostAccess_r8_reg (a := 0x00) (r := .status) rfl hk ho
      (.inr (ho ▸ readableWhileBusy_word (.inl rfl) hk))
  · exact fun k hk ho => hostAccess_r8_reg (a := 0x34) (r := .caps) rfl hk ho
      (.inr (ho ▸ readableWhileBusy_word (.inr rfl) hk))
  · intro al ns nc
    have hs : off.toNat ≠ 0x00 := fun e => ns (BitVec.eq_of_toNat_eq e)
    have hc : off.toNat ≠ 0x34 := fun e => nc (BitVec.eq_of_toNat_eq e)
    have hr := readableWhileBusy_eq_false (show off.toNat / 4 ≠ 0 by omega) (by omega)
    exact ⟨_, by rw [hostAccess, if_pos al, State.hostRead_free _ _ busy hr]⟩
  · intro hs hc
    exact ⟨_, by rw [hostAccess, State.hostRead_free _ _ busy (readableWhileBusy_eq_false hs hc)]⟩

/-- Settles O30: the reads of the two registers, whose words are sums of their fields. -/
theorem flagWordsHoldTheirFields : Obligations.FlagWordsHoldTheirFields :=
  ⟨fun s => ⟨hostAccess_r32_reg (r := .status) rfl (.inr rfl), s.status.toWord_toNat⟩,
    fun s idle => ⟨hostAccess_r32_reg (r := .valid) rfl (.inl idle), s.valid.toWord_toNat⟩⟩

/-- A word that decodes completes as its command. -/
theorem completePending_of_decode {s : State} {i : Instr} (h : decode s.pending = .ok i) :
    completePending s = exec i s := by
  simp [completePending, h]

/-- The step after a CMD write with the engine's turn next completes the word it latched: that turn takes off the one
entry engineNext put on the schedule. -/
theorem step_loadCommand (s : State) (w : Word) : step (s.loadCommand w) = completePending (s.issue w) := by
  have enabled : engineTurn (s.issue w) = completePending (s.issue w) := rfl
  rw [← enabled]
  cases hs : s.schedule with
  | nil =>
    have sched : (s.issue w).schedule = [] := hs
    have same : s.loadCommand w = s.issue w := by simp [State.loadCommand, State.issue, hs, engineNext]
    rw [same, step, sched]
    rfl
  | cons u ts =>
    have sched : (s.loadCommand w).schedule = .engine :: u :: ts := by simp [State.loadCommand, hs, engineNext]
    have same : { s.loadCommand w with schedule := u :: ts } = s.issue w := by
      simp [State.loadCommand, State.issue, ← hs]
    rw [step, sched]
    exact congrArg engineTurn same

/-- Settles O6: withFetchWord is the CMD write of the whole word with the engine's turn next. -/
theorem fetchedWordRunsNext : Obligations.FetchedWordRunsNext := fun s w i hw => by
  have word : BitVec.ofNat 32 (w.toNat % 2 ^ 32) = w := by
    rw [Nat.mod_eq_of_lt w.isLt, BitVec.ofNat_toNat, BitVec.setWidth_eq]
  rw [State.withFetchWord, word, step_loadCommand]
  exact completePending_of_decode hw

end Sys2Proof.Machine
end

section
/-! PROOF. What one step does to the block, one case per agent and outcome (10_state.md R13, R15 to R20;
60_exceptions.md R81, R82; 70_reset_and_hazards.md R91), and what follows for CAPS and the VALID bits. -/

namespace Sys2Proof.Machine

/-! ## The command words, read backwards -/

theorem opcodeOf_some {op : BitVec 8} {i : Instr} (h : opcodeOf op = some i) : op = opField (encode i) := by
  unfold opcodeOf at h
  iterate 5 (split at h; next e => cases h; exact e)
  cases h

/-- A word is its OP field under its RSV field (R42). -/
theorem word_ext_of_fields {w w' : Word} (hop : opField w = opField w') (hrsv : rsvField w = rsvField w') : w = w' := by
  have split (x : Word) : rsvField x ++ opField x = x := by
    apply BitVec.eq_of_toNat_eq
    simp only [rsvField, opField, toNat_append_mul, BitVec.extractLsb'_toNat, Nat.shiftRight_eq_div_pow]
    omega
  rw [← split w, ← split w', hop, hrsv]

/-- The word that decodes to a command is the one word that encodes it (R43). -/
theorem eq_encode_of_decode {w : Word} {i : Instr} (h : decode w = .ok i) : w = encode i := by
  unfold decode at h
  split at h
  · next rsv =>
    split at h
    · next e =>
      cases h
      exact word_ext_of_fields (opcodeOf_some e) (rsv.trans (by cases i <;> rfl))
    · cases h
  · cases h

/-! ## The host's side of a state -/

/-- s with another draw counter, schedule, program and record of reads: what no block can see. -/
def State.withHost (s : State) (d : Nat) (ts : List Turn) (p : List HostOp) (r : List ReadRecord) : State :=
  { s with draws := d, schedule := ts, program := p, hostReads := r }

/-- A host read is seen on the host's side alone (R35). -/
theorem State.hostRead_eq_withHost (s : State) (off : Offset) (v : ReadValue) (free : Word → ReadValue) :
    ∃ d r, s.hostRead off v free = s.withHost d s.schedule s.program r := by
  obtain e | ⟨-, -, e⟩ := s.hostRead_cases off v free
  · exact ⟨_, _, e⟩
  · exact ⟨_, _, e⟩

/-! ## Host stores -/

/-- The cells of t come from those of s by host writes of SECRET and KEY bytes: nothing but the cells differs, they stay
canonical, and no byte below SECRET changes. -/
structure HostStored (s t : State) : Prop where
  frame : t = { s with mem := t.mem }
  wf : s.mem.wf s.config = true → t.mem.wf t.config = true
  low : ∀ a, a < secretBase → t.readByte a = s.readByte a

theorem HostStored.refl (s : State) : HostStored s s := ⟨rfl, id, fun _ _ => rfl⟩

theorem HostStored.trans {s t u : State} (h : HostStored s t) (h' : HostStored t u) : HostStored s u where
  frame := by rw [h'.frame, h.frame]
  wf := h'.wf ∘ h.wf
  low a lt := (h'.low a lt).trans (h.low a lt)

theorem State.hostStore_stored (s : State) (a : Nat) (b : Byte) : HostStored s (s.hostStore a b) where
  frame := by
    obtain ⟨m, e⟩ := s.hostStore_eq a b
    rw [e]
  wf h := by rw [State.hostStore_config]; exact State.wf_hostStore h
  low a' lt := State.readByte_hostStore_notRam s b (isRam_of_lt _ lt)

theorem HostStored.config {s t : State} (h : HostStored s t) : t.config = s.config := by rw [h.frame]
theorem HostStored.status {s t : State} (h : HostStored s t) : t.status = s.status := by rw [h.frame]
theorem HostStored.valid {s t : State} (h : HostStored s t) : t.valid = s.valid := by rw [h.frame]
theorem HostStored.trunc {s t : State} (h : HostStored s t) : t.trunc = s.trunc := by rw [h.frame]
theorem HostStored.codeValue {s t : State} (h : HostStored s t) : t.codeValue = s.codeValue := by rw [h.frame]
theorem HostStored.codeLen {s t : State} (h : HostStored s t) : t.codeLen = s.codeLen := by rw [h.frame]

/-- A host write of a word is one register's write, or stores of buffer bytes (R32). -/
theorem State.hostStoreWord_effect (s : State) (a : Nat) (v : Word) :
    (∃ r, regAt a = some r ∧ s.hostStoreWord a v = s.writeReg r v) ∨ HostStored s (s.hostStoreWord a v) := by
  obtain ⟨-, r, hr, e⟩ | ⟨-, -, e⟩ | ⟨-, e⟩ := s.hostStoreWord_cases a v
  · exact .inl ⟨r, hr, e⟩
  · rw [e]
    exact .inr (.refl s)
  · rw [e]
    have first := (s.hostStore_stored a (wordByte v 0)).trans (State.hostStore_stored _ (a + 1) (wordByte v 1))
    exact .inr ((first.trans (State.hostStore_stored _ _ _)).trans (State.hostStore_stored _ _ _))

/-! ## One step -/

/-- The engine is about to complete the pending word of s, and ts is the schedule after that. -/
structure EngineCompletes (s : State) (ts : List Turn) : Prop where
  busy : s.status.busy = true
  turn : EngineMovesNext s ts

/-- What a step from s leaves: the completion of a command without or with an error, that of an illegal word, nothing the
block can see, a host write of a register or of buffer bytes, or a reset. -/
inductive StepEffect (s : State) : State → Prop where
  | succeeds (ts : List Turn) (i : Instr) (u : State) : EngineCompletes s ts → s.pending = encode i →
      runCommand i { s with schedule := ts } = .ok u → StepEffect s u.succeed
  | fails (ts : List Turn) (i : Instr) (e : CmdError) : EngineCompletes s ts → s.pending = encode i →
      StepEffect s ({ s with schedule := ts }.fail e (Valid.clearedBy i))
  | illegal (ts : List Turn) : StepEffect s ({ s with schedule := ts }.fail .illegalCmd id)
  | outside (d : Nat) (ts : List Turn) (p : List HostOp) (r : List ReadRecord) : StepEffect s (s.withHost d ts p r)
  | writesReg (ts : List Turn) (rest : List HostOp) (off : Offset) (r : Reg) (v : Word) : s.status.busy = false →
      HostMovesNext s ts → s.program = .access (.w32 off v) :: rest → regAt off.toNat = some r →
      StepEffect s ({ s with schedule := ts, program := rest }.writeReg r v)
  | stores (ts : List Turn) (rest : List HostOp) (t : State) :
      HostStored { s with schedule := ts, program := rest } t → StepEffect s t
  | resets (ts : List Turn) : s.schedule = .reset :: ts → StepEffect s { s with schedule := ts }.resetBlock

/-- The completion of the pending word, as an effect on the block (R81, R82). -/
theorem stepEffect_of_completePending {s t : State} {ts : List Turn} (hc : EngineCompletes s ts)
    (h : completePending { s with schedule := ts } = .next t) : StepEffect s t := by
  obtain ⟨i, hi, e⟩ | ⟨r, -, e⟩ := completePending_cases { s with schedule := ts }
  · have word : s.pending = encode i := eq_encode_of_decode hi
    rw [e] at h
    cases h
    obtain ⟨u, hu, e⟩ | ⟨err, -, e⟩ :=
      State.complete_cases { s with schedule := ts } i (runCommand i { s with schedule := ts })
    · rw [e]
      exact .succeeds ts i u hc word hu
    · rw [e]
      exact .fails ts i err hc word
  · rw [e] at h
    cases h
    exact .illegal ts

/-- The host's access, as an effect on the block (R32, R35). -/
theorem stepEffect_of_hostTurn {s t : State} {ts : List Turn} (turn : HostMovesNext s ts)
    (h : hostTurn { s with schedule := ts } = .next t) : StepEffect s t := by
  obtain ⟨-, rfl⟩ | ⟨op, rest, u, prog, access, rfl⟩ := hostTurn_next h
  · exact .outside _ ts _ _
  · obtain ⟨-, -, off, v, free, rfl⟩ | ⟨-, off, b, ha, -, rfl⟩ | ⟨idle, off, v, ha, -, rfl⟩ := hostAccess_next access
    · obtain ⟨d, r, e⟩ := State.hostRead_eq_withHost { s with schedule := ts, program := rest } off v free
      obtain ⟨p, e'⟩ := afterRead_eq op (State.hostRead { s with schedule := ts, program := rest } off v free)
      rw [e', e]
      exact .outside d ts p r
    · cases op with
      | access a => exact .stores ts rest _ (State.hostStore_stored _ _ _)
      | wait => cases ha
      | rdCode => cases ha
    · cases op with
      | access a =>
        obtain ⟨r, hr, e⟩ | st := State.hostStoreWord_effect { s with schedule := ts, program := rest } off.toNat v
        · cases ha
          rw [afterRead, e]
          exact .writesReg ts rest off r v idle turn prog hr
        · exact .stores ts rest _ st
      | wait => cases ha
      | rdCode => cases ha

/-- What a step can do to the block, said once. -/
theorem step_effect {s t : State} (h : step s = .next t) : StepEffect s t := by
  obtain ⟨busy, ts, hts, turn, e⟩ | ⟨-, ts, -, e⟩ | ⟨ts, hts, turn, e⟩ | ⟨ts, hs, e⟩ := step_cases s
  · rw [e] at h
    refine stepEffect_of_completePending ⟨busy, ?_⟩ h
    exact turn.symm.imp id fun nil => ⟨nil, by rw [hts, nil]; rfl⟩
  · rw [e] at h
    cases h
    exact .outside _ ts _ _
  · rw [e] at h
    refine stepEffect_of_hostTurn ?_ h
    exact turn.symm.imp id fun ⟨nil, idle⟩ => ⟨nil, by rw [hts, nil]; rfl, idle⟩
  · rw [e] at h
    cases h
    exact .resets ts hs

end Sys2Proof.Machine
end

section
/-! PROOF. CAPS and the VALID bits under every step (10_state.md R20, R24; 60_exceptions.md R82). -/

namespace Sys2Proof.Machine

/-! ## CAPS -/

theorem runCommand_ok_config {i : Instr} {s t : State} (h : runCommand i s = .ok t) : t.config = s.config := by
  cases i with
  | decode =>
    obtain ⟨-, k, -, rfl⟩ := runDecode_ok h
    rw [State.writeKey_config]
  | hmacCtr =>
    obtain ⟨-, -, rfl⟩ := runHmacCtr_ok h
    rw [State.setValid_config, State.writeMac_config]
  | trunc =>
    obtain ⟨-, d, -, rfl⟩ := runTrunc_ok h
    rw [State.setValid_config, State.writeCode_config]
  | genHotp =>
    obtain ⟨d, -, rfl⟩ := runGenHotp_ok h
    rw [State.writeGenerated_config]
  | genTotp =>
    obtain ⟨d, -, rfl⟩ := runGenTotp_ok h
    rw [State.setCounter_config, State.writeGenerated_config]

@[simp] theorem State.writeReg_config (s : State) (r : Reg) (v : Word) : (s.writeReg r v).config = s.config := by
  cases r <;> rfl

/-- No step changes the capacity. -/
theorem StepEffect.config {s t : State} (h : StepEffect s t) : t.config = s.config := by
  cases h with
  | succeeds ts i u _ _ run => exact (runCommand_ok_config run :)
  | fails => rfl
  | illegal => rfl
  | outside => rfl
  | writesReg => simp
  | stores ts rest _ st => exact st.config
  | resets => rfl

/-- Settles O28: CAPS depends on the capacity alone, which no step changes; it is defined in a busy block too. -/
theorem capsIsConstant : Obligations.CapsIsConstant := by
  refine ⟨fun s wf => ?_, fun s => ?_, fun s t h => ?_, fun s v idle => ?_⟩
  · have small : s.config.secretMax < 2 ^ 16 := by
      simp only [Config.wf, Bool.and_eq_true, decide_eq_true_eq] at wf
      omega
    rw [State.readReg, capsWord_toNat wf]
    omega
  · exact hostAccess_r32_reg (r := .caps) rfl (.inr rfl)
  · rw [State.readReg, State.readReg, (step_effect h).config]
  · exact hostAccess_w32_reg (r := .caps) v rfl idle

/-! ## The VALID bits -/

/-- The VALID bits a successful command sets: those of the outputs it writes (R20). -/
def Valid.setBy : Instr → Valid → Valid
  | .decode => Valid.setKey true
  | .hmacCtr => Valid.setMac true
  | .trunc => Valid.setCode true
  | .genHotp => Valid.setMacCode true
  | .genTotp => Valid.setMacCode true

theorem runCommand_ok_valid {i : Instr} {s t : State} (h : runCommand i s = .ok t) :
    t.valid = Valid.setBy i s.valid := by
  cases i with
  | decode => obtain ⟨-, k, -, rfl⟩ := runDecode_ok h; simp [Valid.setBy]
  | hmacCtr => obtain ⟨-, -, rfl⟩ := runHmacCtr_ok h; simp [Valid.setBy]
  | trunc => obtain ⟨-, d, -, rfl⟩ := runTrunc_ok h; simp [Valid.setBy]
  | genHotp => obtain ⟨d, -, rfl⟩ := runGenHotp_ok h; simp [Valid.setBy]
  | genTotp => obtain ⟨d, -, rfl⟩ := runGenTotp_ok h; simp [Valid.setBy]

section
variable (i : Instr) (v : Valid)

/-! Which commands set and clear each bit, by the command's word. -/

theorem Valid.setBy_key : (Valid.setBy i v).key = (v.key || decide (encode i = 0x00000001#32)) := by
  cases i <;> simp [Valid.setBy, Valid.setKey, Valid.setMac, Valid.setCode, Valid.setMacCode, encode]

theorem Valid.setBy_mac :
    (Valid.setBy i v).mac = (v.mac || decide (encode i ∈ [0x00000002#32, 0x00000004#32, 0x00000005#32])) := by
  cases i <;> simp [Valid.setBy, Valid.setKey, Valid.setMac, Valid.setCode, Valid.setMacCode, encode]

theorem Valid.setBy_code :
    (Valid.setBy i v).code = (v.code || decide (encode i ∈ [0x00000003#32, 0x00000004#32, 0x00000005#32])) := by
  cases i <;> simp [Valid.setBy, Valid.setKey, Valid.setMac, Valid.setCode, Valid.setMacCode, encode]

theorem Valid.clearedBy_key : (Valid.clearedBy i v).key = (v.key && !decide (encode i = 0x00000001#32)) := by
  cases i <;> simp [Valid.clearedBy, Valid.setKey, Valid.setMac, Valid.setCode, Valid.setMacCode, encode]

theorem Valid.clearedBy_mac :
    (Valid.clearedBy i v).mac = (v.mac && !decide (encode i ∈ [0x00000002#32, 0x00000004#32, 0x00000005#32])) := by
  cases i <;> simp [Valid.clearedBy, Valid.setKey, Valid.setMac, Valid.setCode, Valid.setMacCode, encode]

theorem Valid.clearedBy_code :
    (Valid.clearedBy i v).code = (v.code && !decide (encode i ∈ [0x00000003#32, 0x00000004#32, 0x00000005#32])) := by
  cases i <;> simp [Valid.clearedBy, Valid.setKey, Valid.setMac, Valid.setCode, Valid.setMacCode, encode]

end

theorem State.writeReg_valid (s : State) (r : Reg) (v : Word) :
    (s.writeReg r v).valid = s.valid ∨ (r = .keyLen ∧ (s.writeReg r v).valid = s.valid.setKey true) := by
  cases r with
  | keyLen => exact .inr ⟨rfl, rfl⟩
  | _ => exact .inl rfl

theorem offset_of_regAt_keyLen {off : Offset} (h : regAt off.toNat = some .keyLen) : off = 0x0024#16 := by
  apply BitVec.eq_of_toNat_eq
  simpa using regAt_some h

/-- What a step does to VALID: nothing, or what the completion of a command, a KEY_LEN write or a reset does (R20, R82). -/
inductive ValidEffect (s t : State) : Prop where
  | keeps : t.valid = s.valid → ValidEffect s t
  | sets (ts : List Turn) (i : Instr) : EngineCompletes s ts → s.pending = encode i → t.status.err = false →
      t.valid = Valid.setBy i s.valid → ValidEffect s t
  | clears (ts : List Turn) (i : Instr) : EngineCompletes s ts → s.pending = encode i → t.status.err = true →
      t.valid = Valid.clearedBy i s.valid → ValidEffect s t
  | keyLen (ts : List Turn) (v : Word) (rest : List HostOp) : s.status.busy = false → HostMovesNext s ts →
      s.program = .access (.w32 0x0024#16 v) :: rest → t.valid = s.valid.setKey true → ValidEffect s t
  | resets (ts : List Turn) : s.schedule = .reset :: ts → t.valid = Valid.none → ValidEffect s t

theorem StepEffect.validEffect {s t : State} (h : StepEffect s t) : ValidEffect s t := by
  cases h with
  | succeeds ts i u hc word run => exact .sets ts i hc word rfl (runCommand_ok_valid run :)
  | fails ts i e hc word => exact .clears ts i hc word rfl rfl
  | illegal => exact .keeps rfl
  | outside => exact .keeps rfl
  | writesReg ts rest off r v idle turn prog hr =>
    obtain same | ⟨rfl, set⟩ := State.writeReg_valid { s with schedule := ts, program := rest } r v
    · exact .keeps same
    · exact .keyLen ts v rest idle turn (offset_of_regAt_keyLen hr ▸ prog) set
  | stores ts rest _ st => exact .keeps st.valid
  | resets ts hs => exact .resets ts hs rfl

/-- Settles O33: of the effects of a step on VALID, only these two can raise KEY_VALID. -/
theorem keyValidIsSetOnlyByKeyLenOrDecode : Obligations.KeyValidIsSetOnlyByKeyLenOrDecode := by
  intro s t h was is
  cases (step_effect h).validEffect with
  | keeps hv => simp [hv, was] at is
  | sets ts i hc word noErr hv =>
    have decodes : encode i = 0x00000001#32 := by simpa [hv, Valid.setBy_key, was] using is
    exact .inl ⟨hc.busy, ⟨ts, hc.turn⟩, word.trans decodes, noErr⟩
  | clears ts i hc word err hv => simp [hv, Valid.clearedBy_key, was] at is
  | keyLen ts v rest idle turn prog hv => exact .inr ⟨idle, ⟨ts, turn⟩, v, rest, prog⟩
  | resets ts hs hv => simp [hv, Valid.none] at is

/-- Settles O34: a bit rises by the commands that set it and falls by reset and the commands that clear it; a KEY_LEN write
touches KEY_VALID alone. -/
theorem validBitsChangeOnlyAsTheTableSays : Obligations.ValidBitsChangeOnlyAsTheTableSays := by
  intro s t h
  cases (step_effect h).validEffect with
  | keeps hv => simp +contextual [hv]
  | sets ts i hc word noErr hv =>
    have engine : ∃ ts, EngineMovesNext s ts := ⟨ts, hc.turn⟩
    rw [hv, word, Valid.setBy_key, Valid.setBy_mac, Valid.setBy_code]
    refine ⟨fun was is => ⟨hc.busy, engine, noErr, ?_⟩, fun was is => ⟨hc.busy, engine, noErr, ?_⟩, ?_, ?_, ?_⟩
    · simpa only [was, Bool.false_or, decide_eq_true_eq] using is
    · simpa only [was, Bool.false_or, decide_eq_true_eq] using is
    all_goals exact fun was is => by simp [was] at is
  | clears ts i hc word err hv =>
    have engine : ∃ ts, EngineMovesNext s ts := ⟨ts, hc.turn⟩
    rw [hv, word, Valid.clearedBy_key, Valid.clearedBy_mac, Valid.clearedBy_code]
    refine ⟨fun was is => by simp [was] at is, fun was is => by simp [was] at is, ?_, ?_, ?_⟩
    all_goals
      refine fun was is => .inr ⟨hc.busy, engine, err, ?_⟩
      simpa only [was, Bool.true_and, Bool.not_eq_false', decide_eq_true_eq] using is
  | keyLen ts v rest idle turn prog hv => simp +contextual [hv, Valid.setKey]
  | resets ts hs hv => simp [hv, hs, Valid.none]

end Sys2Proof.Machine
end

section
/-! PROOF. The results of the commands under every step, and the invariant of the block (10_state.md R15, R20, R27, R28;
60_exceptions.md R80). -/

namespace Sys2Proof.Machine

/-! ## What leaves the results alone -/

/-- MSG and MAC lie in offsets 0x0050 to 0x0073 (R30). -/
theorem sameMac_of_readByte {s t : State} (h : ∀ a, 0x50 ≤ a → a < 0x74 → t.readByte a = s.readByte a) :
    SameMac s t := by
  constructor <;> refine (State.readBytes_congr fun i hi => h _ ?_ ?_).symm <;> simp only [msgBase, macBase] <;> omega

/-- CODE lies in offsets 0x0040 to 0x004F (R30). -/
theorem codeBytes_of_readByte {s t : State} (h : ∀ a, 0x40 ≤ a → a < 0x50 → t.readByte a = s.readByte a) :
    t.codeBytes = s.codeBytes := by
  refine State.readBytes_congr fun i hi => h _ ?_ ?_ <;> simp only [codeBase] <;> omega

/-- t holds the results s holds. -/
def KeepsResults (s t : State) : Prop := SameMac s t ∧ SameCode s t

/-- A change that touches no byte below SECRET and no result register leaves the results alone. -/
theorem keepsResults_of {s t : State} (bytes : ∀ a, a < secretBase → t.readByte a = s.readByte a)
    (trunc : t.trunc = s.trunc) (value : t.codeValue = s.codeValue) (len : t.codeLen = s.codeLen) :
    KeepsResults s t := by
  have below {a : Nat} (h : a < 0x74) : a < secretBase := Nat.lt_trans h (by decide)
  refine ⟨sameMac_of_readByte fun a _ hi => bytes a (below hi), trunc.symm, value.symm, len.symm, ?_⟩
  exact (codeBytes_of_readByte fun a _ hi => bytes a (below (by omega))).symm

theorem State.writeReg_readByte (s : State) (r : Reg) (v : Word) (a : Nat) :
    (s.writeReg r v).readByte a = s.readByte a := by
  cases r <;> rfl

theorem State.writeReg_keepsResults (s : State) (r : Reg) (v : Word) : KeepsResults s (s.writeReg r v) := by
  refine keepsResults_of (fun a _ => s.writeReg_readByte r v a) ?_ ?_ ?_ <;> cases r <;> rfl

theorem HostStored.keepsResults {s t : State} (h : HostStored s t) : KeepsResults s t :=
  keepsResults_of h.low h.trunc h.codeValue h.codeLen

theorem State.writeKey_keepsResults (s : State) (k : List Byte) : KeepsResults s (s.writeKey k) :=
  keepsResults_of (fun _ h => s.writeKey_readByte_outside k (.inl (Nat.lt_trans h (by decide)))) (by simp) (by simp)
    (by simp)

/-- DECODE alone of the commands has other results than these. -/
theorem encode_of_ne_decode {i : Instr} (h : i ≠ .decode) :
    encode i = 0x00000002#32 ∨ encode i = 0x00000003#32 ∨ encode i = 0x00000004#32 ∨ encode i = 0x00000005#32 := by
  cases i <;> simp [encode] at h ⊢

/-- Settles O35: of the seven effects of a step, a reset and the success of a command other than DECODE alone touch a
result. -/
theorem resultsChangeOnlyAtACompletion : Obligations.ResultsChangeOnlyAtACompletion := by
  intro s t h changed
  cases step_effect h with
  | succeeds ts i u hc word run =>
    have other : i ≠ .decode := by
      rintro rfl
      obtain ⟨-, k, -, rfl⟩ := runDecode_ok run
      exact changed (State.writeKey_keepsResults { s with schedule := ts } k)
    exact .inr ⟨hc.busy, ⟨ts, hc.turn⟩, rfl, word ▸ encode_of_ne_decode other⟩
  | fails => exact absurd (keepsResults_of (fun _ _ => rfl) rfl rfl rfl) changed
  | illegal => exact absurd (keepsResults_of (fun _ _ => rfl) rfl rfl rfl) changed
  | outside => exact absurd (keepsResults_of (fun _ _ => rfl) rfl rfl rfl) changed
  | writesReg ts rest off r v =>
    exact absurd (State.writeReg_keepsResults { s with schedule := ts, program := rest } r v) changed
  | stores ts rest _ st => exact absurd st.keepsResults changed
  | resets ts hs => exact .inl ⟨ts, hs⟩

/-! ## What the results mean -/

/-- The meaning of MAC_VALID = 1 (R20). -/
def State.MacMeaning (s : State) : Prop := ∃ key c, key.length ≤ s.config.keyMax ∧ s.HoldsMac key c

/-- The meaning of CODE_VALID = 1 (R20). -/
def State.CodeMeaning (s : State) : Prop := ∃ mac d, mac.length = 20 ∧ 1 ≤ d ∧ d ≤ 10 ∧ s.HoldsCode mac d

theorem State.MacMeaning.congr {s t : State} (h : s.MacMeaning) (hc : t.config = s.config) (same : SameMac s t) :
    t.MacMeaning := by
  obtain ⟨key, c, len, msg, mac⟩ := h
  obtain ⟨hmsg, hmac⟩ := same
  exact ⟨key, c, hc ▸ len, hmsg ▸ msg, hmac ▸ mac⟩

theorem State.CodeMeaning.congr {s t : State} (h : s.CodeMeaning) (same : SameCode s t) : t.CodeMeaning := by
  obtain ⟨mac, d, len, lo, hi, holds⟩ := h
  obtain ⟨ht, hv, hl, hb⟩ := same
  refine ⟨mac, d, len, lo, hi, ?_⟩
  simpa only [State.HoldsCode, ht, hv, hl, hb] using holds

/-- The serialized counter is its eight bytes, big-endian (41_counter_serializer.md R61). -/
theorem serialize_eq_beBytes (c : Wide) : serialize c = beBytes 8 c.toNat := by
  unfold serialize
  rfl

theorem State.keyBytes_length (s : State) : s.keyBytes.length = s.keyLen.toNat := State.readBytes_length _ _ _

/-- After the writes of an HMAC computation MSG and MAC hold it (42_hmac_sha1.md R69). -/
theorem State.writeMac_holdsMac (s : State) (c : Wide) : (s.writeMac c).HoldsMac s.keyBytes c :=
  ⟨by rw [State.writeMac_msgBytes, serialize_eq_beBytes], by rw [State.writeMac_macBytes, serialize_eq_beBytes]⟩

theorem State.writeMac_macMeaning {s : State} (h : s.keyLen.toNat ≤ s.config.keyMax) (c : Wide) :
    (s.writeMac c).MacMeaning :=
  ⟨s.keyBytes, c, by simpa [State.keyBytes_length] using h, s.writeMac_holdsMac c⟩

/-! ## Truncation -/

/-- The offset is the low nibble of the last MAC byte (43_truncation.md R72). -/
theorem truncOffset_eq_mod (mac : List Byte) : truncOffset mac = (mac.getD 19 0#8).toNat % 16 := by
  rw [truncOffset, BitVec.toNat_and]
  exact Nat.and_two_pow_sub_one_eq_mod _ 4

/-- Four bytes of a list from offset n. -/
theorem take_four_drop {l : List Byte} {n : Nat} (h : n + 4 ≤ l.length) :
    (l.drop n).take 4 = [l.getD n 0#8, l.getD (n + 1) 0#8, l.getD (n + 2) 0#8, l.getD (n + 3) 0#8] := by
  rw [List.drop_eq_getElem_cons (by omega), List.drop_eq_getElem_cons (by omega), List.drop_eq_getElem_cons (by omega),
    List.drop_eq_getElem_cons (by omega)]
  rw [List.getD_eq_getElem _ _ (by omega), List.getD_eq_getElem _ _ (by omega), List.getD_eq_getElem _ _ (by omega),
    List.getD_eq_getElem _ _ (by omega)]
  rfl

/-- TRUNC is the selected four bytes, big-endian, without bit 31 (43_truncation.md R73). -/
theorem truncatedValue_toNat {mac : List Byte} (h : mac.length = 20) :
    (truncatedValue mac).toNat = beValue ((mac.drop ((mac.getD 19 0#8).toNat % 16)).take 4) % 2 ^ 31 := by
  have inside : truncOffset mac + 4 ≤ mac.length := by
    rw [truncOffset_eq_mod]
    omega
  rw [← truncOffset_eq_mod, take_four_drop inside, ← wordOfBytes_toNat]
  change (((truncWord mac &&& 0x7FFFFFFF#32).extractLsb' 0 31).toNat = (truncWord mac).toNat % 2 ^ 31)
  rw [BitVec.extractLsb'_toNat, BitVec.toNat_and, Nat.shiftRight_zero]
  have mask := Nat.and_two_pow_sub_one_eq_mod (truncWord mac).toNat 31
  rw [show (0x7FFFFFFF#32).toNat = 2 ^ 31 - 1 from rfl, mask, Nat.mod_mod]

/-- After the writes of a truncation of mac to d digits the code registers and CODE hold it (43_truncation.md R76). -/
theorem State.writeCode_holdsCode (s : State) {mac : List Byte} {d : Nat} (len : mac.length = 20) (hd : d ≤ 10) :
    (s.writeCode mac d).HoldsCode mac d := by
  have value : (s.writeCode mac d).codeValue.toNat = codeValueOf (truncatedValue mac) d := by
    have := (truncatedValue mac).isLt
    have := Nat.mod_le (truncatedValue mac).toNat (10 ^ d)
    rw [State.writeCode_codeValue, BitVec.toNat_ofNat]
    exact Nat.mod_eq_of_lt (by rw [codeValueOf]; omega)
  refine ⟨?_, ?_, ?_, fun i hi => ?_⟩
  · rw [State.writeCode_trunc, truncatedValue_toNat len]
  · rw [value, State.writeCode_trunc, codeValueOf]
  · rw [State.writeCode_codeLen, BitVec.toNat_ofNat]
    exact Nat.mod_eq_of_lt (by omega)
  · rw [value, State.writeCode_codeBytes]
    simp [codeText, codeByte, hi]

theorem State.writeCode_codeMeaning (s : State) {mac : List Byte} {d : Nat} (len : mac.length = 20) (lo : 1 ≤ d)
    (hi : d ≤ 10) : (s.writeCode mac d).CodeMeaning :=
  ⟨mac, d, len, lo, hi, s.writeCode_holdsCode len hi⟩

/-- The writes of a truncation leave MSG and MAC alone. -/
theorem State.writeCode_sameMac (s : State) (mac : List Byte) (d : Nat) : SameMac s (s.writeCode mac d) :=
  sameMac_of_readByte fun _ lo _ => s.writeCode_readByte_outside mac d (.inr lo)

/-- The writes of an HMAC computation leave the code registers and CODE alone. -/
theorem State.writeMac_sameCode (s : State) (c : Wide) : SameCode s (s.writeMac c) := by
  refine ⟨by simp, by simp, by simp, (codeBytes_of_readByte fun a _ hi => ?_).symm⟩
  exact s.writeMac_readByte_outside c (.inl hi) (.inl (Nat.lt_trans hi (by decide)))

/-! ## The invariant -/

theorem Status.idle_ok : Status.idle.Ok := by constructor <;> decide

theorem Status.issued_ok : Status.issued.Ok := by constructor <;> decide

theorem Status.succeeded_ok : Status.succeeded.Ok := by constructor <;> decide

theorem Status.failed_ok (e : CmdError) : (Status.failed e).Ok := by
  cases e <;> constructor <;> decide

/-- A change that leaves the capacity and the results alone keeps the invariant where the cells stay canonical, STATUS
keeps its shape and neither result bit rises. -/
theorem State.Inv.of_keepsResults {s t : State} (hi : s.Inv) (hc : t.config = s.config) (same : KeepsResults s t)
    (hmem : t.mem.wf t.config = true) (hst : t.status.Ok) (hm : t.valid.mac = true → s.valid.mac = true)
    (hcode : t.valid.code = true → s.valid.code = true) : t.Inv where
  config_wf := hc ▸ hi.config_wf
  memory_wf := hmem
  status_ok := hst
  mac_valid v := State.MacMeaning.congr (hi.mac_valid (hm v)) hc same.1
  code_valid v := State.CodeMeaning.congr (hi.code_valid (hcode v)) same.2

theorem State.wf_writeMac {s : State} (h : s.mem.wf s.config = true) (c : Wide) :
    (s.writeMac c).mem.wf (s.writeMac c).config = true := by
  rw [State.writeMac_config, State.writeMac]
  have msg : (s.storeBytes msgBase (serialize c)).mem.wf (s.storeBytes msgBase (serialize c)).config = true := by
    rw [State.storeBytes_config]
    exact State.wf_storeBytes h
  simpa using State.wf_storeBytes (a := macBase) (bs := hmacSha1 s.keyBytes (serialize c)) msg

theorem State.wf_writeCode {s : State} (h : s.mem.wf s.config = true) (mac : List Byte) (d : Nat) :
    (s.writeCode mac d).mem.wf (s.writeCode mac d).config = true := by
  rw [State.writeCode_config, State.writeCode_mem]
  exact State.wf_storeBytes h

theorem State.wf_writeKey {s : State} (h : s.mem.wf s.config = true) (k : List Byte) :
    (s.writeKey k).mem.wf (s.writeKey k).config = true := by
  rw [State.writeKey_config, State.writeKey_mem]
  exact State.wf_storeBytes h

/-- The cells are canonical, and each result bit that is 1 means what R20 says: what a command must leave behind. -/
structure State.ResultsOk (s : State) : Prop where
  memory_wf : s.mem.wf s.config = true
  mac_valid : s.valid.mac = true → s.MacMeaning
  code_valid : s.valid.code = true → s.CodeMeaning

theorem State.Inv.resultsOk {s : State} (hi : s.Inv) : s.ResultsOk := ⟨hi.memory_wf, hi.mac_valid, hi.code_valid⟩

theorem State.ResultsOk.setCounter {s : State} (h : s.ResultsOk) (c : Wide) : (s.setCounter c).ResultsOk := by
  have same : KeepsResults s (s.setCounter c) := keepsResults_of (fun _ _ => rfl) rfl rfl rfl
  exact ⟨h.memory_wf, fun v => (h.mac_valid v).congr rfl same.1, fun v => (h.code_valid v).congr same.2⟩

theorem State.ResultsOk.succeed {s : State} (h : s.ResultsOk) : s.succeed.ResultsOk := by
  have same : KeepsResults s s.succeed := keepsResults_of (fun _ _ => rfl) rfl rfl rfl
  exact ⟨h.memory_wf, fun v => (h.mac_valid v).congr rfl same.1, fun v => (h.code_valid v).congr same.2⟩

/-- VALID may take any value whose result bits have their meaning. -/
theorem State.resultsOk_setValid {s : State} {v : Valid} (wf : s.mem.wf s.config = true)
    (hm : v.mac = true → s.MacMeaning) (hc : v.code = true → s.CodeMeaning) : (s.setValid v).ResultsOk := by
  have same : KeepsResults s (s.setValid v) := keepsResults_of (fun _ _ => rfl) rfl rfl rfl
  exact ⟨wf, fun b => (hm b).congr rfl same.1, fun b => (hc b).congr same.2⟩

/-- The chain HMAC, truncation leaves results that mean what their bits say (44_code_generation.md R77). -/
theorem State.resultsOk_writeGenerated {s : State} {d : Nat} (wf : s.mem.wf s.config = true)
    (h : checkGenerate s = .ok d) (c : Wide) : (s.writeGenerated c d).ResultsOk := by
  obtain ⟨-, len, digits⟩ := checkGenerate_ok h
  obtain ⟨lo, hi, -⟩ := digitCount_ok digits
  refine State.resultsOk_setValid (State.wf_writeCode (State.wf_writeMac wf c) _ d) (fun _ => ?_) fun _ => ?_
  · exact (State.writeMac_macMeaning len c).congr (State.writeCode_config _ _ _) (State.writeCode_sameMac _ _ _)
  · exact State.writeCode_codeMeaning _ (hmacSha1_length _ _) lo hi

/-- A command that raises a result bit has just written what the bit means, and the other results are as they were. -/
theorem runCommand_ok_resultsOk {i : Instr} {s u : State} (hs : s.ResultsOk) (h : runCommand i s = .ok u) :
    u.ResultsOk := by
  obtain ⟨wf, hmac, hcode⟩ := hs
  cases i with
  | decode =>
    obtain ⟨-, k, -, rfl⟩ := runDecode_ok h
    have same := s.writeKey_keepsResults k
    refine ⟨State.wf_writeKey wf k, ?_, ?_⟩ <;> rw [State.writeKey_valid]
    · exact fun v => (hmac v).congr (s.writeKey_config k) same.1
    · exact fun v => (hcode v).congr same.2
  | hmacCtr =>
    obtain ⟨-, len, rfl⟩ := runHmacCtr_ok h
    exact State.resultsOk_setValid (State.wf_writeMac wf _) (fun _ => State.writeMac_macMeaning len _)
      fun v => (hcode v).congr (s.writeMac_sameCode _)
  | trunc =>
    obtain ⟨-, d, digits, rfl⟩ := runTrunc_ok h
    obtain ⟨lo, hi, -⟩ := digitCount_ok digits
    exact State.resultsOk_setValid (State.wf_writeCode wf _ d)
      (fun v => (hmac v).congr (s.writeCode_config _ d) (s.writeCode_sameMac _ d))
      fun _ => s.writeCode_codeMeaning (State.readBytes_length _ _ _) lo hi
  | genHotp =>
    obtain ⟨d, checks, rfl⟩ := runGenHotp_ok h
    exact State.resultsOk_writeGenerated wf checks _
  | genTotp =>
    obtain ⟨d, checks, rfl⟩ := runGenTotp_ok h
    exact (State.resultsOk_writeGenerated wf checks _).setCounter _

/-- A completion without error keeps the invariant. -/
theorem State.Inv.succeed {i : Instr} {s u : State} (hi : s.Inv) (h : runCommand i s = .ok u) : u.succeed.Inv := by
  obtain ⟨wf, hmac, hcode⟩ := (runCommand_ok_resultsOk hi.resultsOk h).succeed
  refine ⟨?_, wf, Status.succeeded_ok, hmac, hcode⟩
  rw [State.succeed_config, runCommand_ok_config h]
  exact hi.config_wf

/-- A completion with an error keeps the invariant: it clears VALID bits and raises none (R82). -/
theorem State.Inv.fail {s : State} (hi : s.Inv) (e : CmdError) {clear : Valid → Valid}
    (hm : (clear s.valid).mac = true → s.valid.mac = true) (hc : (clear s.valid).code = true → s.valid.code = true) :
    (s.fail e clear).Inv :=
  hi.of_keepsResults rfl (keepsResults_of (fun _ _ => rfl) rfl rfl rfl) hi.memory_wf (Status.failed_ok e) hm hc

/-- What the block cannot see keeps the invariant. -/
theorem State.Inv.withHost {s : State} (hi : s.Inv) (d : Nat) (ts : List Turn) (p : List HostOp) (r : List ReadRecord) :
    (s.withHost d ts p r).Inv :=
  hi.of_keepsResults rfl (keepsResults_of (fun _ _ => rfl) rfl rfl rfl) hi.memory_wf hi.status_ok id id

/-- A register write keeps the invariant: it sets no result bit, and STATUS changes to that of an issue alone. -/
theorem State.Inv.writeReg {s : State} (hi : s.Inv) (r : Reg) (v : Word) : (s.writeReg r v).Inv := by
  have mem : (s.writeReg r v).mem = s.mem := by cases r <;> rfl
  have status : (s.writeReg r v).status.Ok := by
    cases r with
    | cmd => exact Status.issued_ok
    | _ => exact hi.status_ok
  refine hi.of_keepsResults (s.writeReg_config r v) (s.writeReg_keepsResults r v) ?_ status ?_ ?_
  · rw [mem, s.writeReg_config r v]
    exact hi.memory_wf
  all_goals
    obtain e | ⟨-, e⟩ := s.writeReg_valid r v <;> rw [e]
    · exact id
    · exact id

theorem State.Inv.hostStored {s t : State} (hi : s.Inv) (h : HostStored s t) : t.Inv :=
  hi.of_keepsResults h.config h.keepsResults (h.wf hi.memory_wf) (h.status ▸ hi.status_ok)
    (by rw [h.valid]; exact id) (by rw [h.valid]; exact id)

/-- Reset gives the invariant at every capacity (R90). -/
theorem State.Inv.resetBlock {s : State} (hi : s.Inv) : s.resetBlock.Inv where
  config_wf := hi.config_wf
  memory_wf := rfl
  status_ok := Status.idle_ok
  mac_valid h := absurd (show Valid.none.mac = true from h) (by decide)
  code_valid h := absurd (show Valid.none.code = true from h) (by decide)

/-- Settles O16, one lemma for each effect of a step. -/
theorem stepKeepsTheInvariant : Obligations.StepKeepsTheInvariant := by
  intro s t hi h
  cases step_effect h with
  | succeeds ts i u _ _ run => exact (hi.withHost s.draws ts s.program s.hostReads).succeed run
  | fails ts i e =>
    refine (hi.withHost s.draws ts s.program s.hostReads).fail e ?_ ?_
    · rw [Valid.clearedBy_mac, Bool.and_eq_true]
      exact And.left
    · rw [Valid.clearedBy_code, Bool.and_eq_true]
      exact And.left
  | illegal ts => exact (hi.withHost s.draws ts s.program s.hostReads).fail .illegalCmd id id
  | outside d ts p r => exact hi.withHost d ts p r
  | writesReg ts rest off r v => exact (hi.withHost s.draws ts rest s.hostReads).writeReg r v
  | stores ts rest _ st => exact (hi.withHost s.draws ts rest s.hostReads).hostStored st
  | resets ts => exact (hi.withHost s.draws ts s.program s.hostReads).resetBlock

end Sys2Proof.Machine
end

section
/-! PROOF. Whose turn it is and which accesses stop (20_memory.md R32, R37, R38; 30_encoding.md R46;
70_reset_and_hazards.md R93). -/

namespace Sys2Proof.Machine

/-! ## The host's turn -/

/-- Where the host moves next, a step is the host's turn, whether the schedule names it or the idle block leaves it. -/
theorem step_of_hostMovesNext {s : State} {ts : List Turn} (h : HostMovesNext s ts) :
    step s = hostTurn { s with schedule := ts } := by
  obtain hs | ⟨hs, rfl, idle⟩ := h
  · simp [step, hs]
  · have same : { s with schedule := [] } = s := by rw [← hs]
    simp [step, hs, idle, same]

/-- An operation that is an access is that access and nothing more (R46). -/
theorem hostOp_access (a : Access) (s : State) : hostOp (.access a) s = hostAccess a s := by
  simp only [hostOp, accessOf, afterRead]
  cases hostAccess a s <;> rfl

/-- Settles O7: the turn takes the access off the program and makes it. -/
theorem hostTurnPerformsTheNextAccess : Obligations.HostTurnPerformsTheNextAccess := by
  intro s ts a rest turn prog
  rw [step_of_hostMovesNext turn, hostTurn, prog]
  exact hostOp_access a _

/-- Settles O12: an access that answers in a busy block is a read, which only the host's side of the state sees. -/
theorem hostCannotChangeABusyBlock : Obligations.HostCannotChangeABusyBlock := by
  intro s t ts busy hs h
  rw [step_of_hostMovesNext (.inl hs)] at h
  obtain ⟨-, rfl⟩ | ⟨op, rest, u, -, access, rfl⟩ := hostTurn_next h
  · rfl
  · obtain ⟨-, -, off, v, free, rfl⟩ | ⟨idle, -⟩ | ⟨idle, -⟩ := hostAccess_next access
    · obtain ⟨d, r, read⟩ := State.hostRead_eq_withHost { s with schedule := ts, program := rest } off v free
      obtain ⟨p, loop⟩ := afterRead_eq op (State.hostRead { s with schedule := ts, program := rest } off v free)
      rw [loop, read]
      rfl
    all_goals exact absurd (busy.symm.trans idle) (by decide)

/-! ## Violations of the host contract -/

/-- A write in a busy block is HOST_HAZARD, whatever its form (R93; log entry 9). -/
theorem hostAccess_of_hazard {a : Access} {s : State} (busy : s.status.busy = true) (write : a.isWrite = true) :
    hostAccess a s = .fault .hostHazard := by
  cases a with
  | r8 | r32 | readOther => cases write
  | w8 | w32 | writeOther => simp [hostAccess, busy]

/-- Any other access of a form R32 does not allow is ACCESS (log entries 10, 11). -/
theorem hostAccess_of_not_wf {a : Access} {s : State} (noHazard : ¬(s.status.busy = true ∧ a.isWrite = true))
    (form : a.wf = false) : hostAccess a s = .fault .access := by
  cases a with
  | r8 => cases form
  | r32 off => simpa [hostAccess, Access.wf] using form
  | readOther => rfl
  | w8 off b =>
    have idle : s.status.busy = false := by simpa [Access.isWrite] using noHazard
    simpa [hostAccess, idle, Access.wf] using form
  | w32 off v =>
    have idle : s.status.busy = false := by simpa [Access.isWrite] using noHazard
    simpa [hostAccess, idle, Access.wf] using form
  | writeOther off bits =>
    have idle : s.status.busy = false := by simpa [Access.isWrite] using noHazard
    simp [hostAccess, idle]

/-- Every access of an allowed form that is no hazard answers a next state. -/
theorem hostAccess_of_wf {a : Access} {s : State} (noHazard : ¬(s.status.busy = true ∧ a.isWrite = true))
    (form : a.wf = true) : ∃ t, hostAccess a s = .next t := by
  cases a with
  | r8 => exact ⟨_, rfl⟩
  | r32 off =>
    have aligned : off.toNat % 4 = 0 := by simpa [Access.wf] using form
    exact ⟨_, if_pos aligned⟩
  | readOther => cases form
  | w8 off b =>
    have idle : s.status.busy = false := by simpa [Access.isWrite] using noHazard
    have high : ¬off.toNat < 0x40 := by simpa [Access.wf] using form
    exact ⟨_, by rw [hostAccess, idle, if_neg Bool.false_ne_true, if_neg high]⟩
  | w32 off v =>
    have idle : s.status.busy = false := by simpa [Access.isWrite] using noHazard
    have aligned : off.toNat % 4 = 0 := by simpa [Access.wf] using form
    exact ⟨_, by rw [hostAccess, idle, if_neg Bool.false_ne_true, if_pos aligned]⟩
  | writeOther => cases form

/-- Settles O22: the three cases exclude each other and each fixes the outcome. -/
theorem hostAccessStopsExactlyOnViolations : Obligations.HostAccessStopsExactlyOnViolations := by
  intro a s
  by_cases hazard : s.status.busy = true ∧ a.isWrite = true
  · simp [hostAccess_of_hazard hazard.1 hazard.2, hazard]
  · cases form : a.wf with
    | false => simp [hostAccess_of_not_wf hazard form, hazard]
    | true =>
      obtain ⟨t, next⟩ := hostAccess_of_wf hazard form
      simp [next, hazard]

end Sys2Proof.Machine
end

section
/-! PROOF. The map of the window and the reads of an idle block (20_memory.md R30 to R34; 10_state.md R15 to R28). -/

namespace Sys2Proof.Machine

/-! ## The map -/

/-- The offsets the map lets the host write are bytes of SECRET and KEY, at every capacity. -/
theorem isRam_of_writable {c : Config} {a : Nat} (h : WritableOffset c a) : isRam c a = true := by
  rw [isRam_iff]
  simp only [WritableOffset, between, Config.keyMax] at h
  omega

/-- At a legal capacity SECRET and KEY lie inside their ranges of the map, so the host may write all their bytes. -/
theorem isRam_iff_writable {c : Config} (wf : c.wf = true) {a : Nat} : isRam c a = true ↔ WritableOffset c a := by
  refine ⟨fun h => ?_, isRam_of_writable⟩
  rw [isRam_iff] at h
  simp only [Config.wf, Bool.and_eq_true, decide_eq_true_eq] at wf
  simp only [WritableOffset, between, Config.keyMax]
  omega

theorem ReservedOffset.not_writable {c : Config} {a : Nat} (h : ReservedOffset c a) : ¬WritableOffset c a := by
  simp only [ReservedOffset, WritableOffset, between, Config.keyMax] at *
  omega

theorem ReadOnlyOffset.not_writable {c : Config} {a : Nat} (h : ReadOnlyOffset a) : ¬WritableOffset c a := by
  simp only [ReadOnlyOffset, WritableOffset, between] at *
  omega

theorem isRam_eq_false_of_not_writable {c : Config} (wf : c.wf = true) {a : Nat} (h : ¬WritableOffset c a) :
    isRam c a = false :=
  Bool.eq_false_iff.mpr (mt (isRam_iff_writable wf).mp h)

/-- Which offsets hold a byte of CODE, MSG or MAC, as a proposition on numbers (R30). -/
theorem isResult_iff (a : Nat) :
    isResult a = true ↔ between 0x0040 0x004F a ∨ between 0x0050 0x0057 a ∨ between 0x0060 0x0073 a := by
  simp only [isResult, Bool.or_eq_true, Bool.and_eq_true, decide_eq_true_eq]
  simp only [codeBase, msgBase, macBase, between]
  omega

theorem isBuffer_of_ram {c : Config} {a : Nat} (h : isRam c a = true) : isBuffer c a = true := by simp [isBuffer, h]

/-- The buffers begin where the registers end. -/
theorem isBuffer_high {c : Config} {a : Nat} (h : isBuffer c a = true) : 0x40 ≤ a := by
  rw [isBuffer, Bool.or_eq_true, isRam_iff, isResult_iff] at h
  simp only [between] at h
  omega

theorem WritableOffset.high {c : Config} {a : Nat} (h : WritableOffset c a) : 0x40 ≤ a :=
  isBuffer_high (isBuffer_of_ram (isRam_of_writable h))

/-- From 0x0040 up the writable and the read-only offsets are buffer bytes. -/
theorem isBuffer_of_mapped {c : Config} {a : Nat} (high : 0x40 ≤ a) (h : WritableOffset c a ∨ ReadOnlyOffset a) :
    isBuffer c a = true := by
  rw [isBuffer, Bool.or_eq_true, isResult_iff]
  refine h.imp isRam_of_writable fun ro => ?_
  simp only [ReadOnlyOffset, between] at *
  omega

/-- A reserved offset is no buffer byte. -/
theorem isBuffer_of_reserved {c : Config} (wf : c.wf = true) {a : Nat} (h : ReservedOffset c a) :
    isBuffer c a = false := by
  have noResult : ¬isResult a = true := by
    rw [isResult_iff]
    simp only [ReservedOffset, between] at *
    omega
  rw [isBuffer, isRam_eq_false_of_not_writable wf h.not_writable, Bool.eq_false_iff.mpr noResult]
  rfl

/-- No register stands at a reserved offset. -/
theorem regAt_of_reserved {c : Config} {a : Nat} (h : ReservedOffset c a) : regAt a = none := by
  cases hr : regAt a with
  | none => rfl
  | some r =>
    have := regAt_some hr
    simp only [List.mem_cons, Prod.mk.injEq, List.not_mem_nil, or_false] at this
    simp only [ReservedOffset, between] at h
    omega

/-! ## What the window shows -/

/-- The four bytes of a word, put together again (R31). -/
theorem wordOfBytes_wordByte (w : Word) :
    wordOfBytes (wordByte w 0) (wordByte w 1) (wordByte w 2) (wordByte w 3) = w := by
  apply BitVec.eq_of_toNat_eq
  simp only [wordOfBytes, toNat_append_mul, wordByte, BitVec.extractLsb'_toNat, Nat.shiftRight_eq_div_pow]
  omega

/-- An aligned word of the window is its four bytes in order, registers and buffers alike (R31). -/
theorem State.windowWord_eq_wordOfBytes (s : State) {a : Nat} (al : a % 4 = 0) :
    s.windowWord a =
      wordOfBytes (s.windowByte a) (s.windowByte (a + 1)) (s.windowByte (a + 2)) (s.windowByte (a + 3)) := by
  by_cases low : a < 0x40
  · have byte {k : Nat} (hk : k < 4) : s.windowByte (a + k) = wordByte (s.regWord a) k := by
      have base : (a + k) / 4 * 4 = a := by omega
      have index : (a + k) % 4 = k := by omega
      rw [State.windowByte, if_pos (by omega), base, index]
    have first : s.windowByte a = wordByte (s.regWord a) 0 := byte (k := 0) (by decide)
    rw [State.windowWord, if_pos low, first, byte (k := 1) (by decide), byte (k := 2) (by decide),
      byte (k := 3) (by decide), wordOfBytes_wordByte]
  · rw [State.windowWord, if_neg low]

theorem State.windowByte_buffer (s : State) {a : Nat} (h : isBuffer s.config a = true) :
    s.windowByte a = s.readByte a := by
  rw [State.windowByte, if_neg (Nat.not_lt.mpr (isBuffer_high h)), if_pos h]

/-- A reserved offset shows 0, among the registers and among the buffers (R33, R34). -/
theorem State.windowByte_reserved {s : State} (wf : s.config.wf = true) {a : Nat} (h : ReservedOffset s.config a) :
    s.windowByte a = 0#8 := by
  by_cases low : a < 0x40
  · have base : ReservedOffset s.config (a / 4 * 4) := by
      simp only [ReservedOffset, between] at *
      omega
    rw [State.windowByte, if_pos low, State.regWord, regAt_of_reserved base]
    simp [wordByte]
  · rw [State.windowByte, if_neg low, isBuffer_of_reserved wf h]
    rfl

/-! ## Reads of an idle block -/

theorem hostAccess_r8_idle {s : State} (idle : s.status.busy = false) (off : Offset) :
    hostAccess (.r8 off) s = .next (s.record off (.byte (s.windowByte off.toNat))) := by
  rw [hostAccess, State.hostRead_defined _ _ (.inl idle)]

theorem hostAccess_r32_idle {s : State} (idle : s.status.busy = false) {off : Offset} (al : off.toNat % 4 = 0) :
    hostAccess (.r32 off) s = .next (s.record off (.word (s.windowWord off.toNat))) := by
  rw [hostAccess, if_pos al, State.hostRead_defined _ _ (.inl idle)]

/-- An 8-bit read of a buffer byte returns the byte held. -/
theorem hostAccess_r8_buffer {s : State} (idle : s.status.busy = false) {off : Offset} {a : Nat} (ho : off.toNat = a)
    (h : isBuffer s.config a = true) : hostAccess (.r8 off) s = .next (s.record off (.byte (s.readByte a))) := by
  rw [hostAccess_r8_idle idle, ho, State.windowByte_buffer s h]

/-- Byte i of a read of several bytes, i below their number. -/
theorem State.readBytes_getD (s : State) (a : Nat) {n i : Nat} (h : i < n) (d : Byte) :
    (s.readBytes a n).getD i d = s.readByte (a + i) := by
  have len : i < (s.readBytes a n).length := by rwa [State.readBytes_length]
  rw [List.getD_eq_getElem _ _ len, State.readBytes_getElem]

/-- The map of R30 for registers, by name. -/
def registerMap : List (Offset × Reg) :=
  [(0x0000#16, .status), (0x0004#16, .cmd), (0x0008#16, .valid), (0x000C#16, .digits), (0x0010#16, .timeHi),
    (0x0014#16, .timeLo), (0x0018#16, .counterHi), (0x001C#16, .counterLo), (0x0020#16, .secretLen),
    (0x0024#16, .keyLen), (0x0028#16, .trunc), (0x002C#16, .codeValue), (0x0030#16, .codeLen), (0x0034#16, .caps)]

theorem regAt_of_mem_registerMap : ∀ p ∈ registerMap, regAt p.1.toNat = some p.2 := by decide

theorem State.registerValues_eq (s : State) : s.registerValues = registerMap.map fun p => (p.1, s.readReg p.2) := rfl

/-- Each pair of registerValues is the offset of a register and the word that register reads as. -/
theorem State.regAt_of_mem_registerValues {s : State} {off : Offset} {v : Word} (h : (off, v) ∈ s.registerValues) :
    ∃ r, regAt off.toNat = some r ∧ s.readReg r = v := by
  rw [State.registerValues_eq, List.mem_map] at h
  obtain ⟨⟨off', r⟩, mem, e⟩ := h
  cases e
  exact ⟨r, regAt_of_mem_registerMap _ mem, rfl⟩

/-- Settles O25: the register map read through the window, and every buffer byte as held. -/
theorem idleReadsReturnWhatIsHeld : Obligations.IdleReadsReturnWhatIsHeld := by
  intro s idle
  refine ⟨fun off v mem => ?_, fun off i => ⟨?_, ?_, ?_, ?_, ?_⟩, fun off writable => ?_, ?_, ?_⟩
  · obtain ⟨r, hr, rfl⟩ := State.regAt_of_mem_registerValues mem
    exact hostAccess_r32_reg hr (.inl idle)
  · intro hi ho
    rw [State.codeBytes, s.readBytes_getD codeBase hi]
    exact hostAccess_r8_buffer idle ho (isBuffer_code _ hi)
  · intro hi ho
    rw [State.msgBytes, s.readBytes_getD msgBase hi]
    exact hostAccess_r8_buffer idle ho (isBuffer_msg _ hi)
  · intro hi ho
    rw [State.macBytes, s.readBytes_getD macBase hi]
    exact hostAccess_r8_buffer idle ho (isBuffer_mac _ hi)
  · intro hi fits ho
    rw [State.secretBytes, s.readBytes_getD secretBase hi]
    exact hostAccess_r8_buffer idle ho (isBuffer_secret _ (Nat.lt_of_lt_of_le hi fits))
  · intro hi fits ho
    rw [State.keyBytes, s.readBytes_getD keyBase hi]
    exact hostAccess_r8_buffer idle ho (isBuffer_key _ (Nat.lt_of_lt_of_le hi fits))
  · exact hostAccess_r8_buffer idle rfl (isBuffer_of_ram (isRam_of_writable writable))
  · exact s.readBytes_length _ _
  · exact s.keyBytes_length

/-- Settles O24: the word is the four bytes the window shows; at a register it is the register's word, and in the
buffers each byte is the one held or, where reserved, 0. -/
theorem wordReadIsFourByteReads : Obligations.WordReadIsFourByteReads := by
  intro s off idle al
  have next {k : Nat} (hk : k < 4) : (off + BitVec.ofNat 16 k).toNat = off.toNat + k := by
    have := off.isLt
    rw [BitVec.toNat_add, BitVec.toNat_ofNat]
    omega
  have read {k : Nat} (hk : k < 4) : hostAccess (.r8 (off + BitVec.ofNat 16 k)) s =
      .next (s.record (off + BitVec.ofNat 16 k) (.byte (s.windowByte (off.toNat + k)))) := by
    rw [hostAccess_r8_idle idle, next hk]
  refine ⟨_, s.windowByte off.toNat, _, _, _, hostAccess_r32_idle idle al, hostAccess_r8_idle idle off,
    read (k := 1) (by decide), read (k := 2) (by decide), read (k := 3) (by decide), ?_, fun v mem => ?_,
    fun high k hk => ?_⟩
  · rw [State.windowWord_eq_wordOfBytes s al, wordOfBytes_toNat]
  · obtain ⟨r, hr, rfl⟩ := State.regAt_of_mem_registerValues mem
    exact s.windowWord_reg hr
  · have byte : [s.windowByte off.toNat, s.windowByte (off.toNat + 1), s.windowByte (off.toNat + 2),
        s.windowByte (off.toNat + 3)].getD k 0#8 = s.windowByte (off.toNat + k) := by
      match k, hk with
      | 0, _ | 1, _ | 2, _ | 3, _ => rfl
    rw [byte]
    exact ⟨fun mapped => s.windowByte_buffer (isBuffer_of_mapped (by omega) mapped),
      fun wf reserved => State.windowByte_reserved wf reserved⟩

end Sys2Proof.Machine
end

section
/-! PROOF. The host's writes: the bytes and registers they change and what they leave alone (20_memory.md R31 to
R35). -/

namespace Sys2Proof.Machine

/-! ## Stores, cell by cell -/

/-- What a host write of a byte does to every cell: it lists the byte where the host may write, and that is all. -/
theorem State.lookup_hostStore (s : State) (a x : Nat) (b : Byte) :
    (s.hostStore a b).mem.lookup x = if x = a ∧ isRam s.config a = true then some b else s.mem.lookup x := by
  by_cases ram : isRam s.config a = true
  · have store : (s.hostStore a b).mem = s.mem.insert a b := by
      simp [State.hostStore, State.storeByte, Memory.write, isBuffer, ram]
    by_cases e : x = a
    · rw [store, e, Memory.lookup_insert_self, if_pos ⟨rfl, ram⟩]
    · rw [store, Memory.lookup_insert_of_ne _ _ e, if_neg fun h => e h.1]
  · rw [State.hostStore, if_neg ram, if_neg fun h => ram h.2]

/-- What a host write of a word from 0x0040 up does to every cell: four byte writes, bits 31:24 first (R31, R32). -/
theorem State.lookup_hostStoreWord (s : State) {a : Nat} (high : 0x40 ≤ a) (v : Word) (x : Nat) :
    (s.hostStoreWord a v).mem.lookup x =
      if a ≤ x ∧ x < a + 4 ∧ isRam s.config x = true then some (wordByte v (x - a)) else s.mem.lookup x := by
  have stores : (s.hostStoreWord a v).mem.lookup x =
      if x = a + 3 ∧ isRam s.config (a + 3) = true then some (wordByte v 3)
      else if x = a + 2 ∧ isRam s.config (a + 2) = true then some (wordByte v 2)
      else if x = a + 1 ∧ isRam s.config (a + 1) = true then some (wordByte v 1)
      else if x = a ∧ isRam s.config a = true then some (wordByte v 0) else s.mem.lookup x := by
    rw [State.hostStoreWord, if_neg (Nat.not_lt.mpr high)]
    simp only [State.lookup_hostStore, State.hostStore_config]
  have inside : x = a ∨ x = a + 1 ∨ x = a + 2 ∨ x = a + 3 ∨ ¬(a ≤ x ∧ x < a + 4) := by omega
  rw [stores]
  obtain rfl | rfl | rfl | rfl | outside := inside
  · simp
  · simp
  · simp
  · simp
  · rw [if_neg (by omega), if_neg (by omega), if_neg (by omega), if_neg (by omega),
      if_neg fun h => outside ⟨h.1, h.2.1⟩]

/-- A host write of a word from 0x0040 up changes the cells alone. -/
theorem State.hostStoreWord_stored (s : State) {a : Nat} (high : 0x40 ≤ a) (v : Word) :
    HostStored s (s.hostStoreWord a v) := by
  obtain ⟨r, hr, -⟩ | stored := s.hostStoreWord_effect a v
  · exact absurd (regAt_aligned hr).1 (Nat.not_lt.mpr high)
  · exact stored

theorem HostStored.mem_frame {s t : State} (h : HostStored s t) : { t with mem := s.mem } = s := by rw [h.frame]

/-- What every byte reads as after a host write of a word from 0x0040 up. -/
theorem State.readByte_hostStoreWord (s : State) {a : Nat} (high : 0x40 ≤ a) (v : Word) (x : Nat) :
    (s.hostStoreWord a v).readByte x =
      if a ≤ x ∧ x < a + 4 ∧ isRam s.config x = true then wordByte v (x - a) else s.readByte x := by
  have stored := s.hostStoreWord_stored high v
  have draw : (s.hostStoreWord a v).ramDraw = s.ramDraw := by rw [stored.frame]
  rw [State.readByte, State.lookup_hostStoreWord s high, stored.config, draw]
  by_cases written : a ≤ x ∧ x < a + 4 ∧ isRam s.config x = true
  · simp only [if_pos written]
  · simp only [if_neg written]
    rfl

/-- A byte outside the word written, or one the host may not write, reads as before. -/
theorem State.readByte_hostStoreWord_frame (s : State) (a : Nat) (v : Word) {x : Nat}
    (h : x < a ∨ a + 4 ≤ x ∨ isRam s.config x = false) : (s.hostStoreWord a v).readByte x = s.readByte x := by
  by_cases high : 0x40 ≤ a
  · rw [s.readByte_hostStoreWord high, if_neg]
    rintro ⟨lo, hi, ram⟩
    exact h.elim (by omega) fun h => h.elim (by omega) fun notRam => by simp [ram] at notRam
  · obtain ⟨-, r, -, e⟩ | ⟨-, -, e⟩ | ⟨high', -⟩ := s.hostStoreWord_cases a v
    · rw [e, State.writeReg_readByte]
    · rw [e]
    · exact absurd high' high

/-! ## Writes of an idle block -/

theorem hostAccess_w8_idle {s : State} (idle : s.status.busy = false) {off : Offset} (high : 0x40 ≤ off.toNat)
    (b : Byte) : hostAccess (.w8 off b) s = .next (s.hostStore off.toNat b) := by
  rw [hostAccess, idle, if_neg Bool.false_ne_true, if_neg (Nat.not_lt.mpr high)]

theorem hostAccess_w32_idle {s : State} (idle : s.status.busy = false) {off : Offset} (al : off.toNat % 4 = 0)
    (v : Word) : hostAccess (.w32 off v) s = .next (s.hostStoreWord off.toNat v) := by
  rw [hostAccess, idle, if_neg Bool.false_ne_true, if_pos al]

/-- A word below 0x0040 where no register stands ignores the write (R33). -/
theorem State.hostStoreWord_noReg (s : State) {a : Nat} (hr : regAt a = none) (low : a < 0x40) (v : Word) :
    s.hostStoreWord a v = s := by
  rw [State.hostStoreWord, if_pos low, hr]

/-! ## SECRET and KEY -/

/-- A word of writable and reserved bytes: the writable ones take their byte of the value, every other byte stays. -/
theorem hostAccess_w32_bytes {s : State} (wf : s.config.wf = true) (idle : s.status.busy = false) {off : Offset}
    (al : off.toNat % 4 = 0) (v : Word)
    (map : ∀ k, k < 4 → WritableOffset s.config (off.toNat + k) ∨ ReservedOffset s.config (off.toNat + k)) :
    ∃ t, hostAccess (.w32 off v) s = .next t ∧
      (∀ k, k < 4 → WritableOffset s.config (off.toNat + k) →
        t.readByte (off.toNat + k) = BitVec.ofNat 8 (v.toNat / 256 ^ (3 - k))) ∧
      (∀ a, a < off.toNat ∨ off.toNat + 4 ≤ a ∨ ¬WritableOffset s.config a → t.readByte a = s.readByte a) ∧
      { t with mem := s.mem } = s := by
  refine ⟨_, hostAccess_w32_idle idle al v, ?_⟩
  have others (a : Nat) (ha : a < off.toNat ∨ off.toNat + 4 ≤ a ∨ ¬WritableOffset s.config a) :
      (s.hostStoreWord off.toNat v).readByte a = s.readByte a :=
    s.readByte_hostStoreWord_frame _ v (ha.imp_right (Or.imp_right (isRam_eq_false_of_not_writable wf)))
  by_cases low : off.toNat < 0x40
  · have reserved : ReservedOffset s.config off.toNat :=
      (map 0 (by decide)).resolve_left fun w => absurd w.high (Nat.not_le.mpr low)
    refine ⟨fun k hk w => ?_, others, ?_⟩
    · have := w.high
      omega
    · rw [s.hostStoreWord_noReg (regAt_of_reserved reserved) low]
  · have high : 0x40 ≤ off.toNat := Nat.not_lt.mp low
    refine ⟨fun k hk w => ?_, others, (s.hostStoreWord_stored high v).mem_frame⟩
    rw [s.readByte_hostStoreWord high, if_pos ⟨by omega, by omega, isRam_of_writable w⟩, Nat.add_sub_cancel_left,
      wordByte_eq_ofNat _ hk]

/-- Settles O26: the writes byte by byte; a word below capacity is a word across it with no reserved byte. -/
theorem bufferWritesStoreTheirBytes : Obligations.BufferWritesStoreTheirBytes := by
  intro s off wf idle
  refine ⟨fun writable b => ?_, fun al writable v => ?_, fun al map v => hostAccess_w32_bytes wf idle al v map⟩
  · have ram := isRam_of_writable writable
    exact ⟨_, hostAccess_w8_idle idle writable.high b, s.readByte_hostStore_self b ram,
      fun a ne => s.readByte_hostStore_of_ne b ne, (s.hostStore_stored _ b).mem_frame⟩
  · obtain ⟨t, next, bytes, others, frame⟩ :=
      hostAccess_w32_bytes wf idle al v fun k hk => .inl (writable k hk)
    exact ⟨t, next, fun k hk => bytes k hk (writable k hk), fun a ha => others a (by omega), frame⟩

/-! ## Reserved and read-only offsets -/

theorem State.hostStore_notRam (s : State) {a : Nat} (h : isRam s.config a = false) (b : Byte) :
    s.hostStore a b = s := by
  rw [State.hostStore, h]
  rfl

theorem not_writable_of_ignored {c : Config} {a : Nat} (h : ReservedOffset c a ∨ ReadOnlyOffset a) :
    ¬WritableOffset c a :=
  h.elim ReservedOffset.not_writable ReadOnlyOffset.not_writable

/-- A register at a reserved or read-only offset ignores the write (R33). -/
theorem State.writeReg_ignored (s : State) {a : Nat} {r : Reg} (hr : regAt a = some r)
    (h : ReservedOffset s.config a ∨ ReadOnlyOffset a) (v : Word) : s.writeReg r v = s := by
  have notReserved : ¬ReservedOffset s.config a := fun reserved => by
    rw [regAt_of_reserved reserved] at hr
    cases hr
  have readOnly := h.resolve_left notReserved
  have place := regAt_some hr
  cases r with
  | status | valid | trunc | codeValue | codeLen | caps => rfl
  | cmd | digits | timeHi | timeLo | counterHi | counterLo | secretLen | keyLen =>
    simp only [List.mem_cons, Prod.mk.injEq, reduceCtorEq, and_false, and_true, false_or, or_false,
      List.not_mem_nil] at place
    simp only [ReadOnlyOffset, between] at readOnly
    omega

/-- A word of reserved and read-only bytes ignores the write (R33, R34). -/
theorem State.hostStoreWord_ignored {s : State} (wf : s.config.wf = true) {a : Nat}
    (h : ∀ k, k < 4 → ReservedOffset s.config (a + k) ∨ ReadOnlyOffset (a + k)) (v : Word) :
    s.hostStoreWord a v = s := by
  have kept {k : Nat} (hk : k < 4) (b : Byte) : s.hostStore (a + k) b = s :=
    s.hostStore_notRam (isRam_eq_false_of_not_writable wf (not_writable_of_ignored (h k hk))) b
  obtain ⟨-, r, hr, e⟩ | ⟨-, -, e⟩ | ⟨-, e⟩ := s.hostStoreWord_cases a v
  · rw [e, s.writeReg_ignored hr (h 0 (by decide))]
  · exact e
  · have first : s.hostStore a (wordByte v 0) = s := kept (k := 0) (by decide) _
    rw [e, first, kept (k := 1) (by decide), kept (k := 2) (by decide), kept (k := 3) (by decide)]

/-- Settles O21: such bytes show 0, and none of them is RAM or a register that takes a write. -/
theorem reservedAndReadOnlyOffsets : Obligations.ReservedAndReadOnlyOffsets := by
  intro s off wf idle
  refine ⟨fun reserved => ?_, fun ignored high b => ?_, fun al reserved => ?_, fun al ignored v => ?_⟩
  · rw [hostAccess_r8_idle idle, State.windowByte_reserved wf reserved]
  · have notRam := isRam_eq_false_of_not_writable wf (not_writable_of_ignored ignored)
    rw [hostAccess_w8_idle idle high, s.hostStore_notRam notRam]
  · have zero {k : Nat} (hk : k < 4) : s.windowByte (off.toNat + k) = 0#8 :=
      State.windowByte_reserved wf (reserved k hk)
    have first : s.windowByte off.toNat = 0#8 := zero (k := 0) (by decide)
    rw [hostAccess_r32_idle idle al, State.windowWord_eq_wordOfBytes s al, first, zero (k := 1) (by decide),
      zero (k := 2) (by decide), zero (k := 3) (by decide)]
    rfl
  · rw [hostAccess_w32_idle idle al, State.hostStoreWord_ignored wf ignored]

/-! ## The effect of one write -/

/-- The register at an offset is the one registerMap names. -/
theorem mem_registerMap_of_regAt {off : Offset} {r : Reg} (h : regAt off.toNat = some r) :
    (off, r) ∈ registerMap := by
  have mem : (off.toNat, r) ∈ registerMap.map fun p => (p.1.toNat, p.2) := regAt_some h
  obtain ⟨⟨off', r'⟩, mem, e⟩ := List.mem_map.mp mem
  obtain ⟨number, rfl⟩ := Prod.mk.inj e
  rwa [← BitVec.eq_of_toNat_eq number]

theorem hostAccess_w8_next {off : Offset} {b : Byte} {s t : State} (h : hostAccess (.w8 off b) s = .next t) :
    0x40 ≤ off.toNat ∧ t = s.hostStore off.toNat b := by
  obtain ⟨read, -⟩ | ⟨-, off, b, e, high, rfl⟩ | ⟨-, off, v, e, -⟩ := hostAccess_next h
  · cases read
  · cases e
    exact ⟨high, rfl⟩
  · cases e

theorem hostAccess_w32_next {off : Offset} {v : Word} {s t : State} (h : hostAccess (.w32 off v) s = .next t) :
    t = s.hostStoreWord off.toNat v := by
  obtain ⟨read, -⟩ | ⟨-, off, b, e, -⟩ | ⟨-, off, v, e, -, rfl⟩ := hostAccess_next h
  · cases read
  · cases e
  · cases e
    rfl

/-- t with what a write at off other than of CMD and KEY_LEN may change put back from s: the operand register there, or
the cells from 0x0040 up (R35). -/
def State.putBack (s t : State) (off : Offset) : State :=
  { t with
    digits := if off = 0x000C#16 then s.digits else t.digits
    timeHi := if off = 0x0010#16 then s.timeHi else t.timeHi
    timeLo := if off = 0x0014#16 then s.timeLo else t.timeLo
    counterHi := if off = 0x0018#16 then s.counterHi else t.counterHi
    counterLo := if off = 0x001C#16 then s.counterLo else t.counterLo
    secretLen := if off = 0x0020#16 then s.secretLen else t.secretLen
    mem := if 0x0040 ≤ off.toNat then s.mem else t.mem }

theorem State.putBack_self (s : State) (off : Offset) : s.putBack s off = s := by
  simp only [State.putBack, ite_self]

theorem HostStored.putBack {s t : State} (h : HostStored s t) {off : Offset} (high : 0x40 ≤ off.toNat) :
    s.putBack t off = s := by
  rw [h.frame]
  simp only [State.putBack, ite_self, if_pos high]

/-- A register write other than of CMD and KEY_LEN changes the register addressed alone. -/
theorem State.putBack_writeReg (s : State) {off : Offset} {r : Reg} (hr : regAt off.toNat = some r)
    (noCmd : off ≠ 0x0004#16) (noKeyLen : off ≠ 0x0024#16) (v : Word) : s.putBack (s.writeReg r v) off = s := by
  have place := mem_registerMap_of_regAt hr
  cases r with
  | status | valid | trunc | codeValue | codeLen | caps => exact s.putBack_self off
  | cmd => exact absurd (by simpa [registerMap] using place) noCmd
  | keyLen => exact absurd (by simpa [registerMap] using place) noKeyLen
  | digits | timeHi | timeLo | counterHi | counterLo | secretLen =>
    simp only [registerMap, List.mem_cons, Prod.mk.injEq, reduceCtorEq, and_false, and_true, false_or, or_false,
      List.not_mem_nil] at place
    rw [place]
    rfl

/-! ## A write done twice -/

/-- Host writes that leave every cell as it was, in a canonical list, leave the state as it was. -/
theorem HostStored.eq_of_lookup {s t : State} (h : HostStored s t) (wf : s.mem.wf s.config = true)
    (same : ∀ x, t.mem.lookup x = s.mem.lookup x) : t = s := by
  have mem : t.mem = s.mem := Memory.ext_of_wf (h.config ▸ h.wf wf) wf same
  rw [h.frame, mem]

theorem State.hostStore_twice {s : State} (wf : s.mem.wf s.config = true) (a : Nat) (b : Byte) :
    (s.hostStore a b).hostStore a b = s.hostStore a b := by
  have stored := s.hostStore_stored a b
  refine (State.hostStore_stored _ a b).eq_of_lookup (stored.wf wf) fun x => ?_
  simp only [State.lookup_hostStore, State.hostStore_config]
  split <;> rfl

theorem State.writeReg_twice (s : State) {r : Reg} (noCmd : r ≠ .cmd) (v : Word) :
    (s.writeReg r v).writeReg r v = s.writeReg r v ∧ (s.writeReg r v).status = s.status := by
  cases r with
  | cmd => exact absurd rfl noCmd
  | _ => exact ⟨rfl, rfl⟩

/-- A word's write but that of CMD, done twice, is done once, and it keeps STATUS. -/
theorem State.hostStoreWord_twice {s : State} (wf : s.mem.wf s.config = true) {a : Nat}
    (noCmd : regAt a ≠ some .cmd) (v : Word) :
    (s.hostStoreWord a v).hostStoreWord a v = s.hostStoreWord a v ∧ (s.hostStoreWord a v).status = s.status := by
  obtain ⟨low, r, hr, -⟩ | ⟨low, hr, -⟩ | ⟨high, -⟩ := s.hostStoreWord_cases a v
  · have write (u : State) : u.hostStoreWord a v = u.writeReg r v := by rw [State.hostStoreWord, if_pos low, hr]
    rw [write, write]
    exact s.writeReg_twice (fun e => noCmd (e ▸ hr)) v
  · have dropped (u : State) : u.hostStoreWord a v = u := u.hostStoreWord_noReg hr low v
    rw [dropped, dropped]
    exact ⟨rfl, rfl⟩
  · have stored := s.hostStoreWord_stored high v
    refine ⟨(State.hostStoreWord_stored _ high v).eq_of_lookup (stored.wf wf) fun x => ?_, stored.status⟩
    simp only [State.lookup_hostStoreWord _ high, stored.config]
    split <;> rfl

/-- Settles O23: reads touch the host's side alone, a write what it addresses, and listing a byte again changes nothing
in a canonical list. -/
theorem accessSideEffects : Obligations.AccessSideEffects := by
  refine ⟨fun a s t read h => ?_, fun a off n s t write noCmd noKeyLen h => ?_, fun a s t wf write noCmd h => ?_⟩
  · obtain ⟨-, -, off, v, free, rfl⟩ | ⟨-, off, b, rfl, -⟩ | ⟨-, off, v, rfl, -⟩ := hostAccess_next h
    · obtain e | ⟨-, -, e⟩ := s.hostRead_cases off v free <;> rw [e]
      · exact ⟨rfl, _, rfl⟩
      · exact ⟨rfl, _, rfl⟩
    · cases read
    · cases read
  · show s.putBack t off = s ∧ _
    obtain ⟨⟨b, rfl⟩, rfl⟩ | ⟨⟨v, rfl⟩, rfl⟩ := write
    · obtain ⟨high, rfl⟩ := hostAccess_w8_next h
      refine ⟨(s.hostStore_stored _ b).putBack high, fun x hx => ?_⟩
      obtain lt | gt | ⟨wf, nw⟩ := hx
      · exact s.readByte_hostStore_of_ne b (by omega)
      · exact s.readByte_hostStore_of_ne b (by omega)
      · exact s.readByte_hostStore_notRam b (isRam_eq_false_of_not_writable wf nw)
    · obtain rfl := hostAccess_w32_next h
      refine ⟨?_, fun x hx => s.readByte_hostStoreWord_frame _ v <|
        hx.imp_right (Or.imp_right fun ⟨wf, nw⟩ => isRam_eq_false_of_not_writable wf nw)⟩
      obtain ⟨-, r, hr, e⟩ | ⟨-, -, e⟩ | ⟨high, -⟩ := s.hostStoreWord_cases off.toNat v
      · rw [e, s.putBack_writeReg hr noCmd noKeyLen]
      · rw [e, s.putBack_self]
      · exact (s.hostStoreWord_stored high v).putBack high
  · obtain ⟨read, -⟩ | ⟨idle, off, b, rfl, high, rfl⟩ | ⟨idle, off, v, rfl, al, rfl⟩ := hostAccess_next h
    · exact absurd (write.symm.trans read) (by decide)
    · rw [hostAccess_w8_idle (by rwa [State.hostStore_status]) high, State.hostStore_twice wf]
    · have notCmd : regAt off.toNat ≠ some .cmd := fun hr => noCmd v <| by
        have place := mem_registerMap_of_regAt hr
        rw [show off = 0x0004#16 by simpa [registerMap] using place]
      obtain ⟨again, status⟩ := State.hostStoreWord_twice wf notCmd v
      rw [hostAccess_w32_idle (by rwa [status]) al, again]

end Sys2Proof.Machine
end

section
/-! PROOF. The command words both ways and the completion of an illegal one (30_encoding.md R42, R43, R44;
60_exceptions.md R81). -/

namespace Sys2Proof.Machine

/-! ## Decode and encode -/

theorem decode_encode (i : Instr) : decode (encode i) = .ok i := by cases i <;> rfl

/-- A word decodes to a command exactly when it is the command's encoding. -/
theorem decode_eq_ok_iff (w : Word) (i : Instr) : decode w = .ok i ↔ w = encode i := by
  refine ⟨eq_encode_of_decode, ?_⟩
  rintro rfl
  exact decode_encode i

/-- In the table's numbering a 32-bit number is read as the word of its bits (log entry 20). -/
theorem decodeTableWord_eq_some_iff {n : Nat} (h : n < 2 ^ 32) (i : Instr) :
    decodeTableWord 32 n = some i ↔ decode (BitVec.ofNat 32 n) = .ok i := by
  rw [decodeTableWord, Nat.mod_eq_of_lt h, if_pos h]
  cases decode (BitVec.ofNat 32 n) <;> simp

/-- Settles O3: the decoder inverts the encoder, and a number of the table is the word of its bits. -/
theorem decodeAndEncodeAgree : Obligations.DecodeAndEncodeAgree := by
  refine ⟨fun i w => decode_eq_ok_iff w i, fun i n h => ?_⟩
  rw [decodeTableWord_eq_some_iff h, decode_eq_ok_iff, ← BitVec.toNat_inj, BitVec.toNat_ofNat, Nat.mod_eq_of_lt h]

/-- The opcodes of the map are 0x01 to 0x05 (R43). -/
theorem encode_toNat_range (i : Instr) : 1 ≤ (encode i).toNat ∧ (encode i).toNat ≤ 5 := by
  cases i <;> decide

/-- The decoder by fields: RSV is 0 and OP is the command's (R42, R43). -/
theorem decode_eq_ok_iff_fields (w : Word) (i : Instr) :
    decode w = .ok i ↔ w.toNat / 2 ^ 8 = 0 ∧ w.toNat % 2 ^ 8 = (encode i).toNat := by
  have range := encode_toNat_range i
  rw [decode_eq_ok_iff, ← BitVec.toNat_inj]
  omega

/-- Settles O2: the number of each command in the map is its encoding. -/
theorem decoderAcceptsExactlyTheOpcodeMap : Obligations.DecoderAcceptsExactlyTheOpcodeMap := by
  intro w i
  cases i <;> exact decode_eq_ok_iff_fields w _

/-! ## Illegal words -/

/-- A word with a reserved bit set or with no opcode of the map is rejected (R44). -/
theorem decode_rejects_illegal {w : Word} (h : w.toNat / 2 ^ 8 ≠ 0 ∨ w.toNat % 2 ^ 8 = 0 ∨ 6 ≤ w.toNat % 2 ^ 8) :
    ∃ r, decode w = .error r := by
  cases hd : decode w with
  | error r => exact ⟨r, rfl⟩
  | ok i =>
    have fields := (decode_eq_ok_iff_fields w i).mp hd
    have range := encode_toNat_range i
    omega

/-- A word the decoder rejects completes with ILLEGAL_CMD and clears no VALID bit (R44, R82). -/
theorem completePending_of_reject {s : State} {r : DecodeReject} (h : decode s.pending = .error r) :
    completePending s = .next (s.fail .illegalCmd id) := by
  simp [completePending, h]

/-- Where the engine is about to complete the pending word, a step is that completion. -/
theorem step_of_engineCompletes {s : State} {ts : List Turn} (h : EngineCompletes s ts) :
    step s = completePending { s with schedule := ts } := by
  obtain ⟨busy, hs | ⟨hs, rfl⟩⟩ := h
  · simp [step, hs, engineTurn, busy]
  · have same : { s with schedule := [] } = s := by rw [← hs]
    simp [step, hs, engineTurn, busy, same]

/-- STATUS after ILLEGAL_CMD: DONE, ERR and the code 0x01 (R15, R80). -/
theorem Status.failed_illegalCmd_toWord : (Status.failed .illegalCmd).toWord = 0x00000106#32 := by decide

/-- Settles O4: a CMD write issues any word, and the completion of one the decoder rejects writes STATUS alone. -/
theorem illegalWordCompletesWithIllegalCmd : Obligations.IllegalWordCompletesWithIllegalCmd := by
  intro s w illegal
  refine ⟨fun idle => ⟨s.issue w, hostAccess_w32_reg (r := .cmd) w rfl idle, rfl, rfl⟩, ?_⟩
  rintro ts busy rfl turn
  obtain ⟨r, hr⟩ := decode_rejects_illegal illegal
  refine ⟨{ s with schedule := ts }.fail .illegalCmd id, ?_, ?_, ?_⟩
  · rw [step_of_engineCompletes ⟨busy, turn⟩]
    exact completePending_of_reject hr
  · exact Status.failed_illegalCmd_toWord
  · rfl

end Sys2Proof.Machine
end

section
/-! PROOF. The host's two loops that depend on a value read, WAIT and RDCODE (30_encoding.md R47;
70_reset_and_hazards.md R94). -/

namespace Sys2Proof.Machine

/-- The host's turn at an operation whose access answers: the access, and what the loop adds after it (R46, R47). -/
theorem step_of_hostOp {s t : State} {ts : List Turn} {op : HostOp} {rest : List HostOp} (turn : HostMovesNext s ts)
    (prog : s.program = op :: rest)
    (access : hostAccess (accessOf op) { s with schedule := ts, program := rest } = .next t) :
    step s = .next (afterRead op t) := by
  simp only [step_of_hostMovesNext turn, hostTurn, prog, hostOp, access]

/-- Bit 0 of STATUS is BUSY (R15). -/
theorem Status.toWord_toNat_mod_two (st : Status) : st.toWord.toNat % 2 = st.busy.toNat := by
  have bit := Bool.toNat_lt st.busy
  rw [Status.toWord_toNat]
  omega

/-- WAIT after a read of STATUS comes again exactly while BUSY is 1. -/
theorem afterRead_wait_status (s : State) (off : Offset) :
    afterRead .wait (s.record off (.word s.status.toWord)) =
      { s.record off (.word s.status.toWord) with
        program := if s.status.busy then .wait :: s.program else s.program } := by
  have last : (s.record off (.word s.status.toWord)).lastRead % 2 = s.status.busy.toNat := s.status.toWord_toNat_mod_two
  rw [afterRead, last]
  cases s.status.busy <;> rfl

/-- Settles O8: the word of STATUS is defined in a busy block too, and its bit 0 is BUSY. -/
theorem waitPollsStatusUntilIdle : Obligations.WaitPollsStatusUntilIdle := by
  intro s ts rest turn prog
  rw [step_of_hostOp turn prog (hostAccess_r32_reg (r := .status) rfl (.inr rfl))]
  exact congrArg _ (afterRead_wait_status _ _)

/-- Settles O9: the read of CODE_LEN is the register's in an idle block and a free value in a busy one (log entry 8);
the loop goes on with the byte reads for it. -/
theorem rdCodeReadsTheLengthThenTheDigits : Obligations.RdCodeReadsTheLengthThenTheDigits := by
  intro s ts rest turn prog
  refine ⟨fun idle => ?_, fun busy => ?_⟩
  · have len : (s.codeLen.setWidth 32).toNat = s.codeLen.toNat := BitVec.toNat_setWidth_of_le (by decide)
    rw [step_of_hostOp turn prog (hostAccess_r32_reg (r := .codeLen) rfl (.inl idle)), ← len]
    rfl
  · obtain ⟨-, -, -, -, free, -⟩ := readsWhileBusy { s with schedule := ts, program := rest } 0x0030#16 busy
    obtain ⟨w, read⟩ := free (by decide) (by decide) (by decide)
    exact ⟨w, step_of_hostOp turn prog read⟩

end Sys2Proof.Machine
end

section
/-! PROOF. The Secret Decoder (40_secret_decoder.md R48 to R56). -/

namespace Sys2Proof.Machine

/-! ## Character classes -/

theorem inRange_iff (lo hi n : Nat) : inRange lo hi n = true ↔ between lo hi n := by simp [inRange, between]

/-- IsHexDigit(c), range by range (R48). -/
theorem isHexDigit_iff (c : Byte) :
    isHexDigit c = true ↔ between 0x30 0x39 c.toNat ∨ between 0x41 0x46 c.toNat ∨ between 0x61 0x66 c.toNat := by
  simp only [isHexDigit, Bool.or_eq_true, inRange_iff, or_assoc]

/-- IsSpace(c), byte by byte (R48). -/
theorem isSpace_iff (c : Byte) : isSpace c = true ↔ c ∈ [0x09#8, 0x0A#8, 0x0B#8, 0x0C#8, 0x0D#8, 0x20#8] := by
  simp only [isSpace, Bool.or_eq_true, inRange_iff, between, decide_eq_true_eq, List.mem_cons, List.not_mem_nil,
    or_false, ← BitVec.toNat_inj, BitVec.toNat_ofNat]
  omega

/-- B32Val(c) = v, range by range (R48). -/
theorem b32Val_eq_some_iff (c : Byte) (v : Nat) :
    b32Val c = some v ↔
      between 0x41 0x5A c.toNat ∧ c.toNat = 0x41 + v ∨ between 0x61 0x7A c.toNat ∧ c.toNat = 0x61 + v ∨
        between 0x32 0x37 c.toNat ∧ c.toNat + 26 = 0x32 + v := by
  simp only [b32Val, inRange_iff, between]
  split_ifs <;> simp only [Option.some.injEq, false_iff] <;> omega

/-- A Base32 value has five bits. -/
theorem b32Val_lt {c : Byte} {v : Nat} (h : b32Val c = some v) : v < 32 := by
  simp only [b32Val_eq_some_iff, between] at h
  omega

/-- The hex digit of a nibble, upper-case or lower-case. -/
def hexDigitOf (upper : Bool) (n : Nat) : Byte :=
  if n < 10 then BitVec.ofNat 8 (0x30 + n) else BitVec.ofNat 8 ((if upper then 0x41 else 0x61) + (n - 10))

theorem hexUpperDigit_eq (n : Nat) : hexUpperDigit n = hexDigitOf true n := rfl

theorem hexPairOf_eq (upper : Bool) (b : Byte) :
    hexPairOf upper b = [hexDigitOf upper (b.toNat / 16), hexDigitOf upper (b.toNat % 16)] := rfl

/-- The digit of a nibble is a hex digit, and its value is the nibble (R48). -/
theorem hexDigitOf_isHexDigit_hexVal :
    ∀ upper, ∀ n < 16, isHexDigit (hexDigitOf upper n) = true ∧ hexVal (hexDigitOf upper n) = n := by decide

theorem isHexDigit_hexDigitOf (upper : Bool) {n : Nat} (h : n < 16) : isHexDigit (hexDigitOf upper n) = true :=
  (hexDigitOf_isHexDigit_hexVal upper n h).1

theorem hexVal_hexDigitOf (upper : Bool) {n : Nat} (h : n < 16) : hexVal (hexDigitOf upper n) = n :=
  (hexDigitOf_isHexDigit_hexVal upper n h).2

/-- The value of a hex digit is a nibble. -/
theorem hexVal_lt {c : Byte} (h : isHexDigit c = true) : hexVal c < 16 := by
  simp only [isHexDigit_iff, between] at h
  simp only [hexVal, inRange_iff, between]
  split_ifs <;> omega

/-- The letters A to F and a to f are the digits of the nibbles from 10 on (R48). -/
theorem hexLetter_isHexDigit_hexVal (upper : Bool) {n : Nat} (h : n < 6) :
    isHexDigit (BitVec.ofNat 8 ((if upper then 0x41 else 0x61) + n)) = true ∧
      hexVal (BitVec.ofNat 8 ((if upper then 0x41 else 0x61) + n)) = 10 + n := by
  have digit : hexDigitOf upper (10 + n) = BitVec.ofNat 8 ((if upper then 0x41 else 0x61) + n) := by simp [hexDigitOf]
  rw [← digit]
  exact hexDigitOf_isHexDigit_hexVal upper _ (by omega)

/-- Settles O36: the classes are those ranges, and the characters of the rule lie in them. -/
theorem characterClasses : Obligations.CharacterClasses := by
  refine ⟨fun n h => ?_, fun n h => ?_, fun c => (isHexDigit_iff c).mp, isSpace_iff, fun n h => ?_, fun n h => ?_,
    fun c h => ?_⟩
  · have digit : hexDigitOf true n = BitVec.ofNat 8 (0x30 + n) := if_pos h
    rw [← digit]
    exact hexDigitOf_isHexDigit_hexVal true n (by omega)
  · obtain ⟨upperDigit, upperVal⟩ := hexLetter_isHexDigit_hexVal true h
    obtain ⟨lowerDigit, lowerVal⟩ := hexLetter_isHexDigit_hexVal false h
    exact ⟨upperDigit, upperVal, lowerDigit, lowerVal⟩
  · simp only [b32Val_eq_some_iff, between, BitVec.toNat_ofNat]
    omega
  · simp only [b32Val_eq_some_iff, between, BitVec.toNat_ofNat]
    omega
  · obtain ⟨v, hv⟩ := Option.ne_none_iff_exists'.mp h
    rw [b32Val_eq_some_iff] at hv
    exact hv.imp And.left (Or.imp And.left And.left)

/-! ## Hex path -/

/-- IsHex(s) is the condition of R49. -/
theorem isHex_iff (s : List Byte) :
    isHex s = true ↔ 2 ≤ s.length ∧ s.length % 2 = 0 ∧ ∀ c ∈ s, isHexDigit c = true := by
  simp only [isHex, Bool.and_eq_true, decide_eq_true_eq, List.all_eq_true, and_assoc]

@[simp] theorem hexPairs_length : ∀ s : List Byte, (hexPairs s).length = s.length / 2
  | [] => rfl
  | [_] => by simp [hexPairs]
  | a :: b :: r => by
    simp only [hexPairs, List.length_cons, hexPairs_length r]
    omega

/-- Byte j of the pairs is the value of pair j, in input order (R50). -/
theorem hexPairs_getD (s : List Byte) {j : Nat} (h : j < (hexPairs s).length) :
    (hexPairs s).getD j 0#8 = BitVec.ofNat 8 (hexVal (s.getD (2 * j) 0#8) * 16 + hexVal (s.getD (2 * j + 1) 0#8)) := by
  induction s using hexPairs.induct generalizing j with
  | case1 a b r ih =>
    cases j with
    | zero => rfl
    | succ j => exact ih (by simpa [hexPairs] using h)
  | case2 s short => simp [hexPairs] at h

/-- An even number of digits is paired off before the rest. -/
theorem hexPairs_append : ∀ s t : List Byte, s.length % 2 = 0 → hexPairs (s ++ t) = hexPairs s ++ hexPairs t
  | [], _, _ => rfl
  | [_], _, odd => by simp at odd
  | a :: b :: r, t, even => by
    simp only [List.length_cons] at even
    simp [hexPairs, hexPairs_append r t (by omega)]

theorem hexDecode_of_even {h : List Byte} (even : h.length % 2 = 0) : hexDecode h = hexPairs h := by
  simp [hexDecode, even]

theorem decodeSecret_of_hex {s : List Byte} (h : isHex s = true) : decodeSecret s = .ok (hexPairs s) := by
  obtain ⟨-, even, -⟩ := (isHex_iff s).mp h
  rw [decodeSecret, if_pos h, hexDecode_of_even even]

theorem decodeSecret_of_not_hex {s : List Byte} (h : isHex s ≠ true) : decodeSecret s = base32Decode s := if_neg h

/-- Settles O37: a pair of nibbles is a byte, so no value of a pair is cut. -/
theorem hexPathDecodesPairs : Obligations.HexPathDecodesPairs := by
  refine ⟨isHex_iff, fun s long even digits => ?_⟩
  have hex : isHex s = true := (isHex_iff s).mpr ⟨long, even, digits⟩
  refine ⟨hexPairs s, decodeSecret_of_hex hex, hexPairs_length s, fun j hj => ?_⟩
  have nibble : ∀ i, i < s.length → hexVal (s.getD i 0#8) < 16 := fun i hi => by
    rw [List.getD_eq_getElem s _ hi]
    exact hexVal_lt (digits _ (List.getElem_mem hi))
  rw [hexPairs_getD s hj, BitVec.toNat_ofNat]
  rw [hexPairs_length] at hj
  have high := nibble (2 * j) (by omega)
  have low := nibble (2 * j + 1) (by omega)
  omega

theorem hexRendering_cons (upper : Bool) (b : Byte) (k : List Byte) :
    hexRendering upper (b :: k) =
      hexDigitOf upper (b.toNat / 16) :: hexDigitOf upper (b.toNat % 16) :: hexRendering upper k := rfl

@[simp] theorem hexRendering_length (upper : Bool) (k : List Byte) : (hexRendering upper k).length = 2 * k.length := by
  induction k with
  | nil => rfl
  | cons b k ih =>
    simp only [hexRendering_cons, List.length_cons, ih]
    omega

theorem isHexDigit_of_mem_hexRendering {upper : Bool} {k : List Byte} {c : Byte} (h : c ∈ hexRendering upper k) :
    isHexDigit c = true := by
  obtain ⟨b, -, hc⟩ := List.mem_flatMap.mp h
  have lt := b.isLt
  rw [hexPairOf_eq, List.mem_pair] at hc
  obtain rfl | rfl := hc
  · exact isHexDigit_hexDigitOf upper (by omega)
  · exact isHexDigit_hexDigitOf upper (by omega)

theorem hexPairs_hexRendering (upper : Bool) (k : List Byte) : hexPairs (hexRendering upper k) = k := by
  induction k with
  | nil => rfl
  | cons b k ih =>
    have lt := b.isLt
    rw [hexRendering_cons, hexPairs, ih, hexVal_hexDigitOf upper (by omega), hexVal_hexDigitOf upper (by omega),
      Nat.div_add_mod', BitVec.ofNat_toNat, BitVec.setWidth_eq]

/-- Settles O38: the rendering is hex, and its pairs are the bytes it came from. -/
theorem hexRenderingDecodesBack : Obligations.HexRenderingDecodesBack := by
  intro upper k nonempty
  have pos := List.length_pos_iff.mpr nonempty
  have hex : isHex (hexRendering upper k) = true := by
    rw [isHex_iff, hexRendering_length]
    exact ⟨by omega, by simp, fun c => isHexDigit_of_mem_hexRendering⟩
  rw [decodeSecret_of_hex hex, hexPairs_hexRendering]

/-! ## Base32 path: stripping and values -/

/-- Strip in the library's words: '=' is dropped from the right of the text without its whitespace (R51). -/
theorem strip_eq_rdropWhile (s : List Byte) :
    strip s = (s.filter fun c => !isSpace c).rdropWhile fun c => decide (c = 0x3D#8) := rfl

theorem strip_length_le (s : List Byte) : (strip s).length ≤ s.length := by
  rw [strip, List.length_reverse]
  refine (List.length_dropWhile_le _ _).trans ?_
  rw [List.length_reverse]
  exact List.length_filter_le _ _

/-- What is dropped from the right of a text at one byte is a run of it. -/
theorem rdropWhile_append_replicate (t : List Byte) (b : Byte) :
    (t.rdropWhile fun c => decide (c = b)) ++ List.replicate (t.rtakeWhile fun c => decide (c = b)).length b = t := by
  have run : t.rtakeWhile (fun c => decide (c = b)) = List.replicate (t.rtakeWhile fun c => decide (c = b)).length b :=
    List.eq_replicate_of_mem fun c hc => of_decide_eq_true (List.mem_rtakeWhile_imp (p := fun c => decide (c = b)) hc)
  rw [← run, List.rdropWhile_append_rtakeWhile]

/-- Settles O41: what Strip drops at the end is a run of '=', and it is maximal. -/
theorem stripRemovesSpacesAndTrailingPadding : Obligations.StripRemovesSpacesAndTrailingPadding := by
  intro s
  rw [strip_eq_rdropWhile]
  refine ⟨_, (rdropWhile_append_replicate _ 0x3D#8).symm, fun last => ?_⟩
  obtain ⟨nonempty, eq⟩ := List.mem_getLast?_eq_getLast last
  exact List.rdropWhile_last_not _ _ nonempty (decide_eq_true eq.symm)

/-- The values of a text are those of its characters, in order (R52). -/
theorem b32Values_eq_some_iff (t : List Byte) (vs : List Nat) :
    b32Values t = some vs ↔ t.map b32Val = vs.map some := by
  induction t generalizing vs with
  | nil => cases vs <;> simp [b32Values]
  | cons c t ih =>
    cases vs with
    | nil =>
      simp only [b32Values]
      split <;> simp
    | cons v vs =>
      simp only [b32Values, List.map_cons, List.cons.injEq, ← ih]
      cases b32Val c <;> cases b32Values t <;> simp

/-- A text has no values exactly when some character has none (R52). -/
theorem b32Values_eq_none_iff (t : List Byte) : b32Values t = none ↔ ∃ c ∈ t, b32Val c = none := by
  induction t with
  | nil => simp [b32Values]
  | cons c t ih =>
    simp only [List.exists_mem_cons_iff, ← ih, b32Values]
    cases b32Val c <;> cases b32Values t <;> simp

/-- The values of a text have five bits each. -/
theorem b32Values_lt {t : List Byte} {vs : List Nat} (h : b32Values t = some vs) : ∀ v ∈ vs, v < 32 := by
  intro v hv
  have mem : some v ∈ t.map b32Val := by
    rw [(b32Values_eq_some_iff t vs).mp h]
    exact List.mem_map_of_mem hv
  obtain ⟨c, -, hc⟩ := List.mem_map.mp mem
  exact b32Val_lt hc

theorem b32Values_length {t : List Byte} {vs : List Nat} (h : b32Values t = some vs) : vs.length = t.length := by
  simpa using (congrArg List.length ((b32Values_eq_some_iff t vs).mp h)).symm

/-- Settles O40: the Base32 path answers a key for every text that has values. -/
theorem badCharExactlyOnAnInvalidCharacter : Obligations.BadCharExactlyOnAnInvalidCharacter := by
  intro s notHex
  rw [decodeSecret_of_not_hex (mt (isHex_iff s).mp notHex), ← b32Values_eq_none_iff, base32Decode]
  cases b32Values (strip s) with
  | none => simp [eq_comm]
  | some vs => simp

/-! ## Base32 path: the integer -/

/-- The fold from acc on: acc shifted past the values, and their sum (R53). -/
theorem foldl_shiftLeft_or_eq {vs : List Nat} (h : ∀ v ∈ vs, v < 32) (acc : Nat) :
    vs.foldl (fun acc v => (acc <<< 5) ||| v) acc = acc * 32 ^ vs.length + base32Sum vs := by
  induction vs generalizing acc with
  | nil => simp [base32Sum]
  | cons v vs ih =>
    obtain ⟨lt, rest⟩ := List.forall_mem_cons.mp h
    rw [List.foldl_cons, ih rest, ← Nat.shiftLeft_add_eq_or_of_lt lt, Nat.shiftLeft_eq, base32Sum, List.length_cons]
    ring

/-- V is the sum without its trailing bits (R53, R54). -/
theorem base32Integer_eq {vs : List Nat} (h : ∀ v ∈ vs, v < 32) :
    base32Integer vs = base32Sum vs / 2 ^ (5 * vs.length % 8) := by
  rw [base32Integer, foldValues, foldl_shiftLeft_or_eq h, Nat.shiftRight_eq_div_pow, Nat.zero_mul, Nat.zero_add]

theorem base32Sum_lt {vs : List Nat} (h : ∀ v ∈ vs, v < 32) : base32Sum vs < 2 ^ (5 * vs.length) := by
  rw [Nat.pow_mul]
  induction vs with
  | nil => simp [base32Sum]
  | cons v vs ih =>
    obtain ⟨lt, rest⟩ := List.forall_mem_cons.mp h
    calc base32Sum (v :: vs) < v * 32 ^ vs.length + 32 ^ vs.length := Nat.add_lt_add_left (ih rest) _
      _ = (v + 1) * 32 ^ vs.length := by ring
      _ ≤ 32 * 32 ^ vs.length := Nat.mul_le_mul_right _ lt
      _ = 32 ^ (vs.length + 1) := by ring

/-- V has the whole bytes of the 5m bits at most (R54). -/
theorem base32Integer_lt {vs : List Nat} (h : ∀ v ∈ vs, v < 32) :
    base32Integer vs < 2 ^ (8 * (5 * vs.length / 8)) := by
  rw [base32Integer_eq h, Nat.div_lt_iff_lt_mul (Nat.two_pow_pos _), ← Nat.pow_add, Nat.div_add_mod]
  exact base32Sum_lt h

/-! ## Base32 path: rendering and byte decoding -/

/-- Big-endian bytes from the low end: the last byte is the low one (R10). -/
theorem beBytes_succ (n v : Nat) : beBytes (n + 1) v = beBytes n (v / 256) ++ [BitVec.ofNat 8 v] := by
  induction n with
  | zero => simp [beBytes]
  | succ n ih =>
    have head : v >>> (8 * (n + 1)) = (v / 256) >>> (8 * n) := by
      rw [show v / 256 = v >>> 8 from (Nat.shiftRight_eq_div_pow v 8).symm, ← Nat.shiftRight_add,
        Nat.mul_succ, Nat.add_comm]
    rw [beBytes, ih, head, beBytes, List.cons_append]

theorem beValue_concat (s : List Byte) (b : Byte) : beValue (s ++ [b]) = beValue s * 256 + b.toNat := by simp [beValue]

/-- The big-endian bytes of a value they can hold have that value (R10). -/
theorem beValue_beBytes {n v : Nat} (h : v < 256 ^ n) : beValue (beBytes n v) = v := by
  induction n generalizing v with
  | zero =>
    have zero : v = 0 := by simpa using h
    rw [zero]
    rfl
  | succ n ih =>
    rw [beBytes_succ, beValue_concat, ih (Nat.div_lt_of_lt_mul (by rwa [Nat.pow_succ'] at h)), BitVec.toNat_ofNat]
    exact Nat.div_add_mod' v 256

@[simp] theorem hexDigits_length (n v : Nat) : (hexDigits n v).length = n := by
  induction n generalizing v with
  | zero => rfl
  | succ n ih => rw [hexDigits, List.length_append, ih, List.length_singleton]

/-- One digit more than a value needs is a leading '0'. -/
theorem hexDigits_succ_of_lt {n v : Nat} (h : v < 16 ^ n) : hexDigits (n + 1) v = 0x30#8 :: hexDigits n v := by
  induction n generalizing v with
  | zero =>
    have zero : v = 0 := by simpa using h
    rw [zero]
    rfl
  | succ n ih =>
    rw [hexDigits, ih (Nat.div_lt_of_lt_mul (by rwa [Nat.pow_succ'] at h))]
    rfl

/-- The pairs of the 2n low hex digits of v are its n low bytes, the most significant first (R50, R55). -/
theorem hexPairs_hexDigits (n v : Nat) : hexPairs (hexDigits (2 * n) v) = beBytes n v := by
  induction n generalizing v with
  | zero => rfl
  | succ n ih =>
    have digits : hexDigits (2 * (n + 1)) v =
        hexDigits (2 * n) (v / 256) ++ [hexDigitOf true (v / 16 % 16), hexDigitOf true (v % 16)] := by
      rw [show 2 * (n + 1) = 2 * n + 1 + 1 from rfl, hexDigits, hexDigits, Nat.div_div_eq_div_mul, List.append_assoc]
      rfl
    have byte : BitVec.ofNat 8 (v / 16 % 16 * 16 + v % 16) = BitVec.ofNat 8 v := by
      apply BitVec.eq_of_toNat_eq
      simp only [BitVec.toNat_ofNat]
      omega
    rw [digits, hexPairs_append _ _ (by simp), ih, beBytes_succ, hexPairs,
      hexVal_hexDigitOf true (by omega), hexVal_hexDigitOf true (by omega), byte]
    rfl

/-- The digits of HexUpper(v) hold v. -/
theorem lt_pow_hexLength (v : Nat) : v < 16 ^ hexLength v := by
  rw [show (16 : Nat) = 2 ^ 4 from rfl, ← Nat.pow_mul]
  exact Nat.lt_log2_self.trans_le (Nat.pow_le_pow_right (by decide) (by rw [hexLength]; omega))

/-- HexUpper(v) made even is v in twice as many digits as it has bytes (R55). -/
theorem evenHexUpper_eq (v : Nat) : evenHexUpper v = hexDigits (2 * (v.log2 / 8 + 1)) v := by
  have len : hexLength v = v.log2 / 4 + 1 := rfl
  rw [evenHexUpper, hexUpper, hexDigits_length]
  split
  · next odd =>
    rw [← hexDigits_succ_of_lt (lt_pow_hexLength v), show hexLength v + 1 = 2 * (v.log2 / 8 + 1) by omega]
  · next even => rw [show hexLength v = 2 * (v.log2 / 8 + 1) by omega]

/-- The route through hex gives the big-endian bytes of v (R55). -/
theorem hexDecode_evenHexUpper (v : Nat) : hexDecode (evenHexUpper v) = beBytes (v.log2 / 8 + 1) v := by
  rw [evenHexUpper_eq, hexDecode_of_even (by simp), hexPairs_hexDigits]

/-- The bytes of the hex route hold v. -/
theorem lt_pow_byteLength (v : Nat) : v < 256 ^ (v.log2 / 8 + 1) := by
  rw [show (256 : Nat) = 2 ^ 8 from rfl, ← Nat.pow_mul]
  exact Nat.lt_log2_self.trans_le (Nat.pow_le_pow_right (by decide) (by omega))

/-- One byte less would not hold v, unless v is 0. -/
theorem pow_byteLength_le {v : Nat} (h : v ≠ 0) : 256 ^ (v.log2 / 8) ≤ v := by
  rw [show (256 : Nat) = 2 ^ 8 from rfl, ← Nat.pow_mul]
  exact (Nat.pow_le_pow_right (by decide) (by omega)).trans (Nat.log2_self_le h)

/-- A text with Base32 values is decoded to the big-endian bytes of V (R52 to R55). -/
theorem base32Decode_of_values {s : List Byte} {vs : List Nat} (h : b32Values (strip s) = some vs) :
    base32Decode s = .ok (beBytes ((base32Integer vs).log2 / 8 + 1) (base32Integer vs)) := by
  rw [base32Decode, h, ← hexDecode_evenHexUpper]

/-- Settles O39: the hex route is the big-endian bytes of V, as many as V needs. -/
theorem base32PathIsTheShortestRendering : Obligations.Base32PathIsTheShortestRendering := by
  intro s vs notHex values
  rw [← b32Values_eq_some_iff] at values
  have path := decodeSecret_of_not_hex (mt (isHex_iff s).mp notHex)
  refine ⟨_, path.trans (base32Decode_of_values values), ?_, ?_, ?_⟩
  · rw [beValue_beBytes (lt_pow_byteLength _), base32Integer_eq (b32Values_lt values)]
  · rw [beBytes_length]
    omega
  · rw [beBytes_length, beValue_beBytes (lt_pow_byteLength _)]
    by_cases zero : base32Integer vs = 0
    · rw [zero]
      exact .inl rfl
    · exact .inr (pow_byteLength_le zero)

/-! ## Key length -/

/-- A value of n bytes at most is rendered in n bytes at most, and one at least. -/
theorem byteLength_le {v n : Nat} (h : v < 2 ^ (8 * n)) : v.log2 / 8 + 1 ≤ max 1 n := by
  by_cases zero : v = 0
  · rw [zero]
    exact Nat.le_max_left 1 n
  · have := (Nat.log2_lt zero).mpr h
    omega

/-- What an accepted text decodes to: the bytes of its pairs, or those of its integer (R49). -/
theorem decodeSecret_ok {s k : List Byte} (h : decodeSecret s = .ok k) :
    isHex s = true ∧ k = hexPairs s ∨
      ∃ vs, b32Values (strip s) = some vs ∧ k = beBytes ((base32Integer vs).log2 / 8 + 1) (base32Integer vs) := by
  by_cases hex : isHex s = true
  · rw [decodeSecret_of_hex hex] at h
    cases h
    exact .inl ⟨hex, rfl⟩
  · rw [decodeSecret_of_not_hex hex] at h
    cases values : b32Values (strip s) with
    | none => simp [base32Decode, values] at h
    | some vs =>
      rw [base32Decode_of_values values] at h
      cases h
      exact .inr ⟨vs, rfl, rfl⟩

/-- Settles O42: two digits make a byte on the hex path, and eight bits of five a character on the other. -/
theorem decodedKeyFitsTheSecret : Obligations.DecodedKeyFitsTheSecret := by
  intro s k h
  obtain ⟨hex, rfl⟩ | ⟨vs, values, rfl⟩ := decodeSecret_ok h
  · obtain ⟨long, -, -⟩ := (isHex_iff s).mp hex
    rw [hexPairs_length]
    omega
  · have bytes := byteLength_le (base32Integer_lt (b32Values_lt values))
    have stripped := strip_length_le s
    rw [b32Values_length values] at bytes
    rw [beBytes_length]
    omega

/-! ## The DECODE command -/

/-- A store of several bytes changes the cells alone. -/
theorem State.storeBytes_eq (s : State) (a : Nat) (bs : List Byte) :
    ∃ m, s.storeBytes a bs = { s with mem := m } := by
  induction bs generalizing s a with
  | nil => exact ⟨s.mem, rfl⟩
  | cons b bs ih =>
    obtain ⟨m, e⟩ := ih (s.storeByte a b) (a + 1)
    refine ⟨m, ?_⟩
    rw [State.storeBytes, e, State.storeByte]
    split <;> rfl

/-- The writes of a DECODE change the cells, KEY_LEN and VALID alone (R56). -/
theorem State.writeKey_frame (s : State) (k : List Byte) :
    { s.writeKey k with mem := s.mem, keyLen := s.keyLen, valid := s.valid } = s := by
  obtain ⟨m, e⟩ := s.storeBytes_eq keyBase k
  rw [State.writeKey, e]
  rfl

/-- KEY_LEN holds the length of a key that fits the buffer. -/
theorem State.writeKey_keyLen_toNat {s : State} {k : List Byte} (wf : s.config.wf = true)
    (fits : k.length ≤ s.config.keyMax) : (s.writeKey k).keyLen.toNat = k.length := by
  simp only [Config.wf, Bool.and_eq_true, decide_eq_true_eq] at wf
  rw [Config.keyMax] at fits
  rw [State.writeKey_keyLen, BitVec.toNat_ofNat, Nat.mod_eq_of_lt (by omega)]

/-- KEY holds the key after the writes of a DECODE. -/
theorem State.writeKey_keyBytes {s : State} {k : List Byte} (wf : s.config.wf = true)
    (fits : k.length ≤ s.config.keyMax) : (s.writeKey k).keyBytes = k := by
  have stored := State.readBytes_storeBytes s k fun i hi => isBuffer_key s.config (Nat.lt_of_lt_of_le hi fits)
  rw [State.keyBytes, State.writeKey_keyLen_toNat wf fits, State.writeKey, State.readBytes_setValid,
    State.readBytes_setKeyLen, stored]

/-- DECODE of a secret within capacity that the decoder accepts (R56). -/
theorem runDecode_of {s : State} {k : List Byte} (len : s.secretLen.toNat ≤ s.config.secretMax)
    (key : decodeSecret s.secretBytes = .ok k) : runDecode s = .ok (s.writeKey k) := by
  simp only [runDecode, if_neg (Nat.not_lt.mpr len), key]

/-- A decoded key fits the KEY buffer (R56, corner cases). -/
theorem decodedKey_le_keyMax {s : State} {k : List Byte} (wf : s.config.wf = true)
    (len : s.secretLen.toNat ≤ s.config.secretMax) (key : decodeSecret s.secretBytes = .ok k) :
    k.length ≤ s.config.keyMax := by
  obtain ⟨-, short⟩ := decodedKeyFitsTheSecret _ _ key
  simp only [Config.wf, Bool.and_eq_true, decide_eq_true_eq] at wf
  rw [State.secretBytes, State.readBytes_length] at short
  rw [Config.keyMax]
  omega

/-- STATUS after a completion without error reads DONE alone (R15, R81). -/
theorem Status.succeeded_toWord : Status.succeeded.toWord = 0x00000002#32 := by decide

/-- Settles O43: the key fits its buffer, so KEY and KEY_LEN hold the whole of it. -/
theorem decodeWritesTheKey : Obligations.DecodeWritesTheKey := by
  intro s k wf len key
  have fits := decodedKey_le_keyMax wf len key
  refine ⟨(s.writeKey k).succeed, ?_, ?_, State.writeKey_keyLen_toNat wf fits, s.writeKey_valid k,
    Status.succeeded_toWord, ?_, fun a outside => s.writeKey_readByte_outside k outside⟩
  · rw [exec_eq, runCommand, runDecode_of len key, State.complete_ok]
  · exact (State.readBytes_succeed _ _ _).trans (State.writeKey_keyBytes wf fits)
  · rw [← s.writeKey_status k]
    exact s.writeKey_frame k

end Sys2Proof.Machine
end

section
/-! PROOF. The time step and the serialized counter (41_counter_serializer.md R58 to R61). -/

namespace Sys2Proof.Machine

/-! ## Register pairs as 64-bit values -/

theorem State.time_toNat (s : State) : s.time.toNat = s.timeHi.toNat * 2 ^ 32 + s.timeLo.toNat :=
  toNat_append_mul s.timeHi s.timeLo

theorem State.counter_toNat (s : State) : s.counter.toNat = s.counterHi.toNat * 2 ^ 32 + s.counterLo.toNat :=
  toNat_append_mul s.counterHi s.counterLo

/-! ## The counter serializer -/

/-- The big-endian bytes of a value in two parts are those of the high part, then those of the low part (R10). -/
theorem beBytes_append (m hi : Nat) {n lo : Nat} (h : lo < 256 ^ n) :
    beBytes (m + n) (hi * 256 ^ n + lo) = beBytes m hi ++ beBytes n lo := by
  induction n generalizing lo with
  | zero =>
    have zero : lo = 0 := by simpa using h
    simp [zero, beBytes]
  | succ n ih =>
    have split : hi * 256 ^ (n + 1) + lo = 256 * (hi * 256 ^ n) + lo := by ring
    have high : (256 * (hi * 256 ^ n) + lo) / 256 = hi * 256 ^ n + lo / 256 := Nat.mul_add_div (by decide) _ _
    have low : BitVec.ofNat 8 (256 * (hi * 256 ^ n) + lo) = BitVec.ofNat 8 lo :=
      BitVec.eq_of_toNat_eq (by simp only [BitVec.toNat_ofNat]; exact Nat.mul_add_mod _ _ _)
    have small : lo / 256 < 256 ^ n := Nat.div_lt_of_lt_mul (by rwa [Nat.pow_succ'] at h)
    rw [split, ← Nat.add_assoc, beBytes_succ, high, low, ih small, List.append_assoc, ← beBytes_succ]

theorem beValue_serialize (c : Wide) : beValue (serialize c) = c.toNat := by
  rw [serialize_eq_beBytes]
  exact beValue_beBytes c.isLt

/-- The two counter registers are serialized one after the other (R61). -/
theorem State.serialize_counter (s : State) :
    serialize s.counter = beBytes 4 s.counterHi.toNat ++ beBytes 4 s.counterLo.toNat := by
  rw [serialize_eq_beBytes, s.counter_toNat]
  exact beBytes_append 4 s.counterHi.toNat (n := 4) s.counterLo.isLt

/-- Settles O45: the serializer answers big-endian bytes, and those of a register pair are those of its halves. -/
theorem serializedCounterIsBigEndian : Obligations.SerializedCounterIsBigEndian :=
  ⟨fun c => ⟨serialize_eq_beBytes c, beValue_serialize c⟩, fun s => ⟨s.counter_toNat, s.serialize_counter⟩⟩

/-! ## The time step -/

theorem timeStep_toNat (t : Wide) : (timeStep t).toNat = t.toNat / 30 := BitVec.toNat_udiv

/-- The range of the time step: the quotient of the greatest TIME (R59). -/
theorem timeStep_le (t : Wide) : (timeStep t).toNat ≤ 614891469123651720 := by
  have bound : t.toNat < 2 ^ 64 := t.isLt
  rw [timeStep_toNat]
  omega

/-- Settles O44: the division is of the whole 64-bit TIME, and its range is that of R59. -/
theorem timeStepIsExactDivision : Obligations.TimeStepIsExactDivision :=
  ⟨State.time_toNat, fun t => ⟨timeStep_toNat t, timeStep_le t, (timeStep_le t).trans_lt (by decide)⟩⟩

end Sys2Proof.Machine
end

section
/-! PROOF. SHA-1, HMAC-SHA1 and HMAC_CTR (42_hmac_sha1.md R62 to R70). -/

namespace Sys2Proof.Machine

/-! ## Padding -/

@[simp] theorem zeros_length (n : Nat) : (zeros n).length = n := List.length_replicate

theorem padZeros_mod (L : Nat) : (L + 1 + padZeros L) % 64 = 56 := by
  unfold padZeros
  omega

/-- No smaller number of zeros leaves room for the length in the last block. -/
theorem mod_ne_of_lt_padZeros {L j : Nat} (h : j < padZeros L) : (L + 1 + j) % 64 ≠ 56 := by
  unfold padZeros at h
  omega

theorem pad_eq (m : List Byte) : pad m = m ++ [0x80#8] ++ zeros (padZeros m.length) ++ beBytes 8 (8 * m.length) := by
  simp [pad]

@[simp] theorem pad_length (m : List Byte) : (pad m).length = 64 * blockCount m.length := by
  have fill := padZeros_mod m.length
  have small : padZeros m.length < 64 := Nat.mod_lt _ (by decide)
  simp only [pad_eq, List.length_append, List.length_singleton, zeros_length, beBytes_length, blockCount]
  omega

/-! ## Blocks and their words -/

@[simp] theorem blocks_length (n : Nat) (m : List Byte) : (blocks n m).length = n := by
  induction n generalizing m with
  | zero => rfl
  | succ n ih => simp [blocks, ih]

/-- Block j is the 64 bytes from 64j on. -/
theorem blocks_getD {n j : Nat} (m : List Byte) (h : j < n) : (blocks n m).getD j [] = (m.drop (64 * j)).take 64 := by
  induction n generalizing m j with
  | zero => omega
  | succ n ih =>
    cases j with
    | zero => rfl
    | succ j =>
      rw [blocks, List.getD_cons_succ, ih _ (by omega), List.drop_drop]
      congr 2
      omega

@[simp] theorem messageBlocks_length (m : List Byte) : (messageBlocks m).length = blockCount m.length :=
  blocks_length _ _

@[simp] theorem blockWords_length : ∀ block : List Byte, (blockWords block).length = block.length / 4
  | [] | [_] | [_, _] | [_, _, _] => by simp [blockWords]
  | _ :: _ :: _ :: _ :: rest => by
    simp only [blockWords, List.length_cons, blockWords_length rest]
    omega

/-- Word t is the big-endian value of the four bytes from 4t on. -/
theorem blockWords_getD_toNat : ∀ (block : List Byte) {t : Nat}, 4 * t + 4 ≤ block.length →
    ((blockWords block).getD t 0#32).toNat = beValue ((block.drop (4 * t)).take 4)
  | [], _, h | [_], _, h | [_, _], _, h | [_, _, _], _, h => by simp at h
  | b0 :: b1 :: b2 :: b3 :: _, 0, _ => wordOfBytes_toNat b0 b1 b2 b3
  | _ :: _ :: _ :: _ :: rest, t + 1, h => by
    simp only [List.length_cons] at h
    exact blockWords_getD_toNat rest (by omega)

/-- Settles O46: the number of zeros is the least one, which makes the padded message a whole number of blocks. -/
theorem paddingAndParsing : Obligations.PaddingAndParsing := by
  refine ⟨fun m => ⟨⟨padZeros m.length, pad_eq m, padZeros_mod _, fun _ => mod_ne_of_lt_padZeros⟩, pad_length m,
    messageBlocks_length m, fun j h => blocks_getD _ (by simpa using h)⟩,
    fun block full => ⟨by simp [full], fun t h => blockWords_getD_toNat block (by omega)⟩⟩

/-! ## The message schedule -/

theorem rotl_eq_rotateLeft {n : Nat} (x : Word) (h : n < 32) : rotl n x = x.rotateLeft n := by
  rw [BitVec.rotateLeft_def, Nat.mod_eq_of_lt h, rotl]

/-- Extending a schedule puts the new words before the old ones. -/
theorem extendSchedule_eq_append (n : Nat) (ws : List Word) :
    ∃ new, new.length = n ∧ extendSchedule n ws = new ++ ws := by
  induction n generalizing ws with
  | zero => exact ⟨[], rfl, rfl⟩
  | succ n ih =>
    obtain ⟨new, len, eq⟩ :=
      ih (rotl 1 (ws.getD 2 0#32 ^^^ ws.getD 7 0#32 ^^^ ws.getD 13 0#32 ^^^ ws.getD 15 0#32) :: ws)
    exact ⟨new ++ [_], by simp [len], by rw [extendSchedule, eq, List.append_cons]⟩

/-- Past the n new words an extended schedule lists the old ones. -/
theorem extendSchedule_getD_add (n k : Nat) (ws : List Word) :
    (extendSchedule n ws).getD (n + k) 0#32 = ws.getD k 0#32 := by
  obtain ⟨new, rfl, eq⟩ := extendSchedule_eq_append n ws
  rw [eq, List.getD_append_right _ _ _ _ (by omega), Nat.add_sub_cancel_left]

/-- Each new word, the latest first, comes from the words 3, 8, 14 and 16 places after it in the list (R66). -/
theorem extendSchedule_getD_new {n i : Nat} (ws : List Word) (h : i < n) :
    (extendSchedule n ws).getD i 0#32 =
      rotl 1 ((extendSchedule n ws).getD (i + 3) 0#32 ^^^ (extendSchedule n ws).getD (i + 8) 0#32 ^^^
        (extendSchedule n ws).getD (i + 14) 0#32 ^^^ (extendSchedule n ws).getD (i + 16) 0#32) := by
  induction n generalizing ws with
  | zero => omega
  | succ n ih =>
    obtain lt | rfl := Nat.lt_succ_iff_lt_or_eq.mp h
    · exact ih _ lt
    · simp only [extendSchedule, extendSchedule_getD_add, List.getD_cons_succ]
      exact extendSchedule_getD_add i 0 _

theorem extendSchedule_length (n : Nat) (ws : List Word) : (extendSchedule n ws).length = n + ws.length := by
  obtain ⟨new, rfl, eq⟩ := extendSchedule_eq_append n ws
  rw [eq, List.length_append]

theorem messageSchedule_length {block : List Byte} (full : block.length = 64) : (messageSchedule block).length = 80 := by
  simp [messageSchedule, extendSchedule_length, full]

/-- The schedule begins with the words of its block (R66). -/
theorem messageSchedule_take {block : List Byte} (full : block.length = 64) :
    (messageSchedule block).take 16 = blockWords block := by
  obtain ⟨new, -, eq⟩ := extendSchedule_eq_append 64 (blockWords block).reverse
  rw [messageSchedule, eq, List.reverse_append, List.reverse_reverse, List.take_left' (by simp [full])]

/-- Word t of the schedule, counted in the list with the latest word first. -/
theorem messageSchedule_getD {block : List Byte} (full : block.length = 64) {t : Nat} (h : t < 80) :
    (messageSchedule block).getD t 0#32 = (extendSchedule 64 (blockWords block).reverse).getD (79 - t) 0#32 := by
  have len : (extendSchedule 64 (blockWords block).reverse).length = 80 := by simp [extendSchedule_length, full]
  rw [messageSchedule, List.getD_reverse t (by omega), len]

/-- Word t of the schedule from the sixteenth on (R66). -/
theorem messageSchedule_getD_new {block : List Byte} (full : block.length = 64) {t : Nat} (low : 16 ≤ t)
    (high : t < 80) : (messageSchedule block).getD t 0#32 =
      rotl 1 ((messageSchedule block).getD (t - 3) 0#32 ^^^ (messageSchedule block).getD (t - 8) 0#32 ^^^
        (messageSchedule block).getD (t - 14) 0#32 ^^^ (messageSchedule block).getD (t - 16) 0#32) := by
  have back : ∀ k, k ≤ 16 → 79 - (t - k) = 79 - t + k := fun k h => by omega
  rw [messageSchedule_getD full high, messageSchedule_getD full (by omega), messageSchedule_getD full (by omega),
    messageSchedule_getD full (by omega), messageSchedule_getD full (by omega), back 3 (by decide), back 8 (by decide),
    back 14 (by decide), back 16 (by decide)]
  exact extendSchedule_getD_new _ (by omega)

/-! ## The rounds -/

/-- R65: round function and constant of each of the four ranges of rounds. -/
theorem roundFunction_roundConstant (t : Nat) (x y z : Word) :
    (t ≤ 19 → roundFunction t x y z = (x &&& y) ^^^ (~~~x &&& z) ∧ roundConstant t = 0x5A827999#32) ∧
    (20 ≤ t → t ≤ 39 → roundFunction t x y z = x ^^^ y ^^^ z ∧ roundConstant t = 0x6ED9EBA1#32) ∧
    (40 ≤ t → t ≤ 59 →
      roundFunction t x y z = (x &&& y) ^^^ (x &&& z) ^^^ (y &&& z) ∧ roundConstant t = 0x8F1BBCDC#32) ∧
    (60 ≤ t → t ≤ 79 → roundFunction t x y z = x ^^^ y ^^^ z ∧ roundConstant t = 0xCA62C1D6#32) := by
  unfold roundFunction roundConstant
  refine ⟨fun h => ?_, fun l h => ?_, fun l h => ?_, fun l h => ?_⟩
  · simp [show t < 20 by omega]
  · simp [show ¬t < 20 by omega, show t < 40 by omega]
  · simp [show ¬t < 20 by omega, show ¬t < 40 by omega, show t < 60 by omega]
  · simp [show ¬t < 20 by omega, show ¬t < 40 by omega, show ¬t < 60 by omega]

/-- The rounds from round t on take the schedule words in order, one round each (R66). -/
theorem rounds_eq_foldl (t : Nat) (ws : List Word) (v : Chain) :
    rounds t ws v = (List.range ws.length).foldl (fun x i => round (t + i) (ws.getD i 0#32) x) v := by
  induction ws generalizing t v with
  | nil => rfl
  | cons w ws ih =>
    rw [rounds, ih, List.length_cons, List.range_succ_eq_map, List.foldl_cons, List.foldl_map]
    simp only [List.getD_cons_succ, Nat.add_right_comm t 1, Nat.succ_eq_add_one, Nat.add_assoc]
    rfl

/-- Settles O47: the schedule is read from its latest word back, and the eighty rounds are a fold over it. -/
theorem compressionFollowsTheRounds : Obligations.CompressionFollowsTheRounds := by
  refine ⟨rfl, roundFunction_roundConstant, fun n x h => rotl_eq_rotateLeft x h, fun block full =>
    ⟨messageSchedule_length full, messageSchedule_take full, fun t => messageSchedule_getD_new full⟩,
    fun h block full => ⟨rounds 0 (messageSchedule block) h, ?_, rfl⟩⟩
  rw [rounds_eq_foldl, messageSchedule_length full]
  simp only [Nat.zero_add]
  rfl

/-! ## The digest and the MAC -/

theorem sha1_eq_digest (m : List Byte) : sha1 m = ((messageBlocks m).foldl compress Chain.initial).digest := by
  unfold sha1
  rfl

theorem hmacSha1_eq (key text : List Byte) : hmacSha1 key text =
    sha1 (xorPad 0x5C#8 (keyBlock key) ++ sha1 (xorPad 0x36#8 (keyBlock key) ++ text)) := by
  unfold hmacSha1
  rfl

/-- A MAC depends on its key through the key block alone. -/
theorem hmacSha1_congr {key key' : List Byte} (h : keyBlock key = keyBlock key') (text : List Byte) :
    hmacSha1 key text = hmacSha1 key' text := by
  rw [hmacSha1_eq, hmacSha1_eq, h]

theorem keyBlock_of_le {key : List Byte} (h : key.length ≤ 64) : keyBlock key = key ++ zeros (64 - key.length) :=
  if_neg (Nat.not_lt.mpr h)

theorem keyBlock_of_lt {key : List Byte} (h : 64 < key.length) : keyBlock key = sha1 key ++ zeros 44 := if_pos h

/-- The zeros that fill a key block absorb those at the end of a key (R68). -/
theorem keyBlock_append_zeros {key : List Byte} {n : Nat} (h : key.length + n ≤ 64) :
    keyBlock (key ++ zeros n) = keyBlock key := by
  have fill : n + (64 - (key.length + n)) = 64 - key.length := by omega
  rw [keyBlock_of_le (by simpa using h), keyBlock_of_le (by omega), List.append_assoc, List.length_append, zeros_length,
    zeros, zeros, ← List.replicate_add, fill, zeros]

/-- A long key has the key block of its digest (R68). -/
theorem keyBlock_sha1 {key : List Byte} (h : 64 < key.length) : keyBlock (sha1 key) = keyBlock key := by
  rw [keyBlock_of_lt h, keyBlock_of_le (by simp), sha1_length]

/-- Settles O48: a MAC depends on its key through the key block, which trailing zeros and the digest of a long key leave
as it is. -/
theorem hmacKeyPreparation : Obligations.HmacKeyPreparation := by
  refine ⟨fun m => ⟨_, rfl, sha1_eq_digest m, sha1_length m⟩, ?_,
    fun key text n h => hmacSha1_congr (keyBlock_append_zeros h) text,
    fun key text h => (hmacSha1_congr (keyBlock_sha1 h) text).symm, hmacSha1_length⟩
  rintro key text k0 (⟨short, rfl⟩ | ⟨long, rfl⟩)
  · rw [hmacSha1_eq, keyBlock_of_le short]
    rfl
  · rw [hmacSha1_eq, keyBlock_of_lt long]
    rfl

/-! ## The work of one MAC -/

theorem innerMessage_length (key text : List Byte) : (innerMessage key text).length = 64 + text.length := by
  simp [innerMessage, xorPad]

theorem outerMessage_length (key text : List Byte) : (outerMessage key text).length = 84 := by
  simp [outerMessage, xorPad]

/-- Over eight bytes the inner and the outer message fill two blocks each, and a long key adds its own (R70). -/
theorem compressionCalls_eq (key : List Byte) {text : List Byte} (h : text.length = 8) :
    compressionCalls key text = (if 64 < key.length then blockCount key.length else 0) + 4 := by
  simp only [compressionCalls, messageBlocks_length, innerMessage_length, outerMessage_length, h]
  rfl

/-- Settles O49: a key of 4096 bytes fills 65 blocks. -/
theorem hmacCompressionCalls : Obligations.HmacCompressionCalls := by
  intro key text len
  rw [compressionCalls_eq key len, blockCount]
  refine ⟨fun short => ?_, fun long => ?_, fun fits => ?_⟩
  · rw [if_neg (by omega)]
  · rw [if_pos long, Nat.add_comm]
  · split <;> omega

/-! ## The HMAC_CTR command -/

theorem runHmacCtr_of {s : State} (key : s.valid.key = true) (len : s.keyLen.toNat ≤ s.config.keyMax) :
    runHmacCtr s = .ok ((s.writeMac s.counter).setValid (s.valid.setMac true)) := by
  simp only [runHmacCtr, checkKey_of key len]

/-- The writes of an HMAC computation change the cells alone (R69). -/
theorem State.writeMac_frame (s : State) (c : Wide) : { s.writeMac c with mem := s.mem } = s := by
  obtain ⟨m, msg⟩ := s.storeBytes_eq msgBase (serialize c)
  obtain ⟨m', mac⟩ := State.storeBytes_eq { s with mem := m } macBase (hmacSha1 s.keyBytes (serialize c))
  rw [State.writeMac, msg, mac]

/-- Settles O50: only the MAC's writes touch a buffer, and they stay inside MSG and MAC. -/
theorem hmacCtrWritesMsgAndMac : Obligations.HmacCtrWritesMsgAndMac := by
  intro s key len
  refine ⟨((s.writeMac s.counter).setValid (s.valid.setMac true)).succeed, ?_, s.writeMac_holdsMac s.counter, rfl,
    Status.succeeded_toWord, ?_, fun a msg mac => s.writeMac_readByte_outside s.counter msg mac⟩
  · rw [exec_eq, runCommand, runHmacCtr_of key len, State.complete_ok]
  · rw [← s.writeMac_valid s.counter, ← s.writeMac_status s.counter]
    exact s.writeMac_frame s.counter

end Sys2Proof.Machine
end

section
/-! PROOF. Digit count, dynamic truncation, the decimal code and TRUNC (43_truncation.md R71 to R76). -/

namespace Sys2Proof.Machine

/-! ## Digit count -/

theorem digitCount_zero : digitCount 0 = .ok 6 := rfl

theorem digitCount_of_between {sel : Nat} (lo : 1 ≤ sel) (hi : sel ≤ 10) : digitCount sel = .ok sel := by
  rw [digitCount, if_neg (by omega), if_pos hi]

theorem digitCount_of_gt {sel : Nat} (h : 10 < sel) : digitCount sel = .error .digits := by
  rw [digitCount, if_neg (by omega), if_neg (by omega)]

/-- Settles O51: each selector falls in one of the three cases of R71. -/
theorem digitCountOfASelector : Obligations.DigitCountOfASelector :=
  ⟨digitCount_zero, fun _ => digitCount_of_between, fun _ lo _ => digitCount_of_gt lo⟩

theorem State.SelectsDigits.digitCount_eq {s : State} {d : Nat} (h : s.SelectsDigits d) :
    digitCount s.digitSelector = .ok d := by
  rw [State.digitSelector]
  obtain ⟨absent, rfl⟩ | ⟨lo, hi, rfl⟩ := h
  · rw [absent, digitCount_zero]
  · exact digitCount_of_between lo hi

theorem State.SelectsDigits.le_ten {s : State} {d : Nat} (h : s.SelectsDigits d) : d ≤ 10 := by
  obtain ⟨-, hi, -⟩ := digitCount_ok h.digitCount_eq
  exact hi

/-! ## Dynamic truncation -/

/-- The four bytes read never reach the last byte of the MAC (R72). -/
theorem truncOffset_add_four_le (mac : List Byte) : truncOffset mac + 4 ≤ 19 := by
  rw [truncOffset_eq_mod]
  omega

/-- P is the big-endian value of the four bytes from the offset (R73). -/
theorem truncWord_toNat {mac : List Byte} (len : mac.length = 20) :
    (truncWord mac).toNat = beValue ((mac.drop (truncOffset mac)).take 4) := by
  have inside := truncOffset_add_four_le mac
  rw [take_four_drop (by omega), truncWord, wordOfBytes_toNat]

/-- Settles O52: the offset is at most 15, so the four bytes selected are bytes of the MAC. -/
theorem truncationReadsTheSelectedBytes : Obligations.TruncationReadsTheSelectedBytes := by
  intro mac len
  refine ⟨truncOffset_eq_mod mac, truncOffset_add_four_le mac, truncWord_toNat len, ?_⟩
  rw [truncatedValue_toNat len, truncOffset_eq_mod]

/-! ## The decimal code -/

theorem codeByte_digit {v d i : Nat} (h : i < d) : (codeByte v d i).toNat = 0x30 + v / 10 ^ (d - 1 - i) % 10 := by
  rw [codeByte, if_pos h, BitVec.toNat_ofNat, Nat.mod_eq_of_lt (by omega)]

theorem codeByte_fill {v d i : Nat} (h : d ≤ i) : codeByte v d i = 0x00#8 := if_neg (Nat.not_lt.mpr h)

theorem codeText_getD (v d : Nat) {i : Nat} (h : i < 16) : (codeText v d).getD i 0#8 = codeByte v d i := by
  simp [codeText, h]

theorem codeText_take (v : Nat) {d : Nat} (h : d ≤ 16) : (codeText v d).take d = (List.range d).map (codeByte v d) := by
  rw [codeText, ← List.map_take, List.take_range, Nat.min_eq_left h]

theorem decimalValue_concat (code : List Byte) (c : Byte) :
    decimalValue (code ++ [c]) = decimalValue code * 10 + (c.toNat - 0x30) := by simp [decimalValue]

/-- All digits but the last are those of a tenth of the value. -/
theorem codeByte_succ (v : Nat) {d i : Nat} (h : i < d) : codeByte v (d + 1) i = codeByte (v / 10) d i := by
  rw [codeByte, codeByte, if_pos h, if_pos (by omega), show d + 1 - 1 - i = d - 1 - i + 1 by omega, Nat.pow_succ',
    ← Nat.div_div_eq_div_mul]

/-- The d digits of a value below 10^d write that value (R75). -/
theorem decimalValue_codeBytes {v d : Nat} (h : v < 10 ^ d) :
    decimalValue ((List.range d).map (codeByte v d)) = v := by
  induction d generalizing v with
  | zero =>
    have zero : v = 0 := by simpa using h
    rw [zero]
    rfl
  | succ d ih =>
    have front : (List.range d).map (codeByte v (d + 1)) = (List.range d).map (codeByte (v / 10) d) :=
      List.map_congr_left fun i hi => codeByte_succ v (List.mem_range.mp hi)
    have last : (codeByte v (d + 1) d).toNat - 0x30 = v % 10 := by
      simp [codeByte_digit (Nat.lt_succ_self d)]
    rw [List.range_succ, List.map_append, List.map_singleton, decimalValue_concat, front, last,
      ih (Nat.div_lt_of_lt_mul (by rwa [Nat.pow_succ'] at h))]
    exact Nat.div_add_mod' v 10

theorem codeValueOf_lt (t : BitVec 31) (d : Nat) : codeValueOf t d < 2 ^ 31 :=
  Nat.lt_of_le_of_lt (Nat.mod_le _ _) t.isLt

/-- Ten digits hold every TRUNC (R74). -/
theorem codeValueOf_ten (t : BitVec 31) : codeValueOf t 10 = t.toNat := Nat.mod_eq_of_lt (by have := t.isLt; omega)

/-- Settles O53: CODE_VALUE has at most d digits, and CODE writes each of them. -/
theorem codeIsTheDecimalRendering : Obligations.CodeIsTheDecimalRendering := by
  intro t d _ hi
  refine ⟨rfl, codeValueOf_lt t d, ?_, codeText_length _ d, fun i digit => ?_, fun i fill low => ?_, ?_⟩
  · rintro rfl
    exact codeValueOf_ten t
  · rw [codeText_getD _ d (by omega), codeByte_digit digit, between]
    omega
  · rw [codeText_getD _ d low, codeByte_fill fill]
  · rw [codeText_take _ (by omega)]
    exact decimalValue_codeBytes (Nat.mod_lt _ (Nat.pow_pos (by decide)))

/-! ## The TRUNC command -/

theorem runTrunc_of {s : State} {d : Nat} (mac : s.valid.mac = true) (digits : digitCount s.digitSelector = .ok d) :
    runTrunc s = .ok ((s.writeCode s.macBytes d).setValid (s.valid.setCode true)) := by
  simp only [runTrunc, mac, digits, Bool.true_eq_false, if_false]

/-- The writes of a truncation change the code registers and the cells alone (R76). -/
theorem State.writeCode_frame (s : State) (mac : List Byte) (d : Nat) :
    { s.writeCode mac d with mem := s.mem, trunc := s.trunc, codeValue := s.codeValue, codeLen := s.codeLen } = s := by
  obtain ⟨m, e⟩ := s.storeBytes_eq codeBase (codeText (codeValueOf (truncatedValue mac) d) d)
  rw [State.writeCode, e]
  rfl

/-- Settles O54: the MAC held has 20 bytes, and only the code's writes touch a buffer. -/
theorem truncWritesTheCode : Obligations.TruncWritesTheCode := by
  intro s d mac selects
  have len : s.macBytes.length = 20 := State.readBytes_length _ _ _
  refine ⟨((s.writeCode s.macBytes d).setValid (s.valid.setCode true)).succeed, ?_,
    s.writeCode_holdsCode len selects.le_ten, rfl, Status.succeeded_toWord, ?_,
    fun a outside => s.writeCode_readByte_outside _ d outside⟩
  · rw [exec_eq, runCommand, runTrunc_of mac selects.digitCount_eq, State.complete_ok]
  · rw [← s.writeCode_valid s.macBytes d, ← s.writeCode_status s.macBytes d]
    exact s.writeCode_frame s.macBytes d

end Sys2Proof.Machine
end

section
/-! PROOF. GEN_HOTP and GEN_TOTP (44_code_generation.md R77, R78). -/

namespace Sys2Proof.Machine

/-! ## Stores and register updates -/

/-- An update that keeps the capacity and commutes with a write to the cells commutes with a store. -/
theorem State.storeBytes_comm {f : State → State} (config : ∀ s, (f s).config = s.config)
    (write : ∀ s a b,
      { f s with mem := (f s).mem.write (f s).config a b } = f { s with mem := s.mem.write s.config a b })
    (s : State) (a : Nat) (bs : List Byte) : (f s).storeBytes a bs = f (s.storeBytes a bs) := by
  induction bs generalizing s a with
  | nil => rfl
  | cons b bs ih =>
    have byte : (f s).storeByte a b = f (s.storeByte a b) := by
      by_cases ok : isBuffer s.config a = true
      · rw [State.storeByte, State.storeByte, if_pos ok, if_pos (config s ▸ ok)]
        exact write s a b
      · rw [State.storeByte, State.storeByte, if_neg ok, if_neg (config s ▸ ok)]
    rw [State.storeBytes, byte, ih, State.storeBytes]

theorem State.storeBytes_setValid (s : State) (v : Valid) (a : Nat) (bs : List Byte) :
    (s.setValid v).storeBytes a bs = (s.storeBytes a bs).setValid v :=
  State.storeBytes_comm (f := (·.setValid v)) (fun _ => rfl) (fun _ _ _ => rfl) s a bs

theorem State.storeBytes_setCounter (s : State) (c : Wide) (a : Nat) (bs : List Byte) :
    (s.setCounter c).storeBytes a bs = (s.storeBytes a bs).setCounter c :=
  State.storeBytes_comm (f := (·.setCounter c)) (fun _ => rfl) (fun _ _ _ => rfl) s a bs

theorem State.storeBytes_succeed (s : State) (a : Nat) (bs : List Byte) :
    s.succeed.storeBytes a bs = (s.storeBytes a bs).succeed :=
  State.storeBytes_comm (f := State.succeed) (fun _ => rfl) (fun _ _ _ => rfl) s a bs

/-! ## The writes of the chain -/

@[simp] theorem State.counter_succeed (s : State) : s.succeed.counter = s.counter := rfl

@[simp] theorem State.counter_setCounter (s : State) (c : Wide) : (s.setCounter c).counter = c :=
  (BitVec.extractLsb'_append_extractLsb'_eq_extractLsb' rfl).trans BitVec.extractLsb'_eq_self

theorem State.keepsResults_setValid (s : State) (v : Valid) : KeepsResults s (s.setValid v) :=
  keepsResults_of (fun _ _ => rfl) rfl rfl rfl

theorem State.keepsResults_setCounter (s : State) (c : Wide) : KeepsResults s (s.setCounter c) :=
  keepsResults_of (fun _ _ => rfl) rfl rfl rfl

theorem State.keepsResults_succeed (s : State) : KeepsResults s s.succeed :=
  keepsResults_of (fun _ _ => rfl) rfl rfl rfl

theorem KeepsResults.trans {s t u : State} (h : KeepsResults s t) (h' : KeepsResults t u) : KeepsResults s u := by
  obtain ⟨⟨msg, mac⟩, trunc, value, len, code⟩ := h
  obtain ⟨⟨msg', mac'⟩, trunc', value', len', code'⟩ := h'
  exact ⟨⟨msg.trans msg', mac.trans mac'⟩, trunc.trans trunc', value.trans value', len.trans len', code.trans code'⟩

/-- What a completion adds to its buffer writes, VALID and STATUS, is no result. -/
theorem State.keepsResults_completed (s : State) (v : Valid) : KeepsResults s (s.setValid v).succeed :=
  (s.keepsResults_setValid v).trans (s.setValid v).keepsResults_succeed

/-- The chain's last writes leave MSG and MAC as the HMAC computation wrote them. -/
theorem State.writeGenerated_sameMac (s : State) (c : Wide) (d : Nat) :
    SameMac (s.writeMac c) (s.writeGenerated c d) := by
  obtain ⟨msg, mac⟩ := (s.writeMac c).writeCode_sameMac (hmacSha1 s.keyBytes (serialize c)) d
  obtain ⟨⟨msg', mac'⟩, -⟩ := State.keepsResults_setValid
    ((s.writeMac c).writeCode (hmacSha1 s.keyBytes (serialize c)) d) (s.valid.setMacCode true)
  exact ⟨msg.trans msg', mac.trans mac'⟩

/-- The chain's last write leaves the code results as the truncation wrote them. -/
theorem State.writeGenerated_sameCode (s : State) (c : Wide) (d : Nat) :
    SameCode ((s.writeMac c).writeCode (hmacSha1 s.keyBytes (serialize c)) d) (s.writeGenerated c d) := by
  obtain ⟨-, code⟩ := State.keepsResults_setValid ((s.writeMac c).writeCode (hmacSha1 s.keyBytes (serialize c)) d)
    (s.valid.setMacCode true)
  exact code

theorem State.writeGenerated_macBytes (s : State) (c : Wide) (d : Nat) :
    (s.writeGenerated c d).macBytes = hmacSha1 s.keyBytes (serialize c) := by
  obtain ⟨-, mac⟩ := s.writeGenerated_sameMac c d
  exact mac.symm.trans (s.writeMac_macBytes c)

theorem State.HoldsMac.congr {s t : State} {key : List Byte} {c : Wide} (h : s.HoldsMac key c) (same : SameMac s t) :
    t.HoldsMac key c := by
  obtain ⟨msg, mac⟩ := same
  rwa [State.HoldsMac, ← msg, ← mac]

theorem State.HoldsCode.congr {s t : State} {mac : List Byte} {d : Nat} (h : s.HoldsCode mac d) (same : SameCode s t) :
    t.HoldsCode mac d := by
  obtain ⟨trunc, value, len, code⟩ := same
  rwa [State.HoldsCode, ← trunc, ← value, ← len, ← code]

/-- Whatever leaves the chain's results alone leaves its MAC and the code of that MAC held. -/
theorem KeepsResults.holdsChain {s t : State} {c : Wide} {d : Nat} (keeps : KeepsResults (s.writeGenerated c d) t)
    (hd : d ≤ 10) : t.HoldsMac s.keyBytes c ∧ t.HoldsCode t.macBytes d := by
  obtain ⟨⟨msg, mac⟩, sameCode⟩ := keeps
  refine ⟨((s.writeMac_holdsMac c).congr (s.writeGenerated_sameMac c d)).congr ⟨msg, mac⟩, ?_⟩
  rw [← mac, s.writeGenerated_macBytes]
  exact ((State.writeCode_holdsCode _ (hmacSha1_length _ _) hd).congr (s.writeGenerated_sameCode c d)).congr sameCode

/-- The chain changes the code registers, VALID and the cells alone (R77). -/
theorem State.writeGenerated_eq (s : State) (c : Wide) (d : Nat) : ∃ m t v n x,
    s.writeGenerated c d = { s with mem := m, trunc := t, codeValue := v, codeLen := n, valid := x } := by
  obtain ⟨m, msg⟩ := s.storeBytes_eq msgBase (serialize c)
  obtain ⟨m', mac⟩ := State.storeBytes_eq { s with mem := m } macBase (hmacSha1 s.keyBytes (serialize c))
  obtain ⟨m'', code⟩ := State.storeBytes_eq { s with mem := m' } codeBase
    (codeText (codeValueOf (truncatedValue (hmacSha1 s.keyBytes (serialize c))) d) d)
  rw [State.writeGenerated, State.writeMac, msg, mac, State.writeCode, code]
  exact ⟨_, _, _, _, _, rfl⟩

/-- The chain touches CODE, MSG and MAC alone, and the first two adjoin (R30). -/
theorem State.writeGenerated_readByte_outside (s : State) (c : Wide) (d : Nat) {a : Nat}
    (codeMsg : a < 0x0040 ∨ 0x0058 ≤ a) (mac : a < 0x0060 ∨ 0x0074 ≤ a) :
    (s.writeGenerated c d).readByte a = s.readByte a := by
  have code : a < codeBase ∨ codeBase + 16 ≤ a := by rw [codeBase]; omega
  have msg : a < msgBase ∨ msgBase + 8 ≤ a := by rw [msgBase]; omega
  rw [State.writeGenerated, State.setValid_readByte, State.writeCode_readByte_outside _ _ _ code,
    s.writeMac_readByte_outside c msg mac]

/-! ## GEN_HOTP and GEN_TOTP -/

theorem runGenHotp_of {s : State} {d : Nat} (checks : checkGenerate s = .ok d) :
    runGenHotp s = .ok (s.writeGenerated s.counter d) := by
  simp only [runGenHotp, checks]

theorem runGenTotp_of {s : State} {d : Nat} (checks : checkGenerate s = .ok d) :
    runGenTotp s = .ok ((s.writeGenerated (timeStep s.time) d).setCounter (timeStep s.time)) := by
  simp only [runGenTotp, checks]

theorem exec_genHotp_of {s : State} {d : Nat} (checks : checkGenerate s = .ok d) :
    exec .genHotp s = .next (s.writeGenerated s.counter d).succeed := by
  rw [exec_eq, runCommand, runGenHotp_of checks, State.complete_ok]

theorem exec_genTotp_of {s : State} {d : Nat} (checks : checkGenerate s = .ok d) :
    exec .genTotp s = .next ((s.writeGenerated (timeStep s.time) d).setCounter (timeStep s.time)).succeed := by
  rw [exec_eq, runCommand, runGenTotp_of checks, State.complete_ok]

/-- Settles O55: the chain's writes stand, and STATUS alone is written beside them. -/
theorem genHotpWritesTheChain : Obligations.GenHotpWritesTheChain := by
  intro s d key len selects
  obtain ⟨mac, code⟩ := (State.keepsResults_succeed (s.writeGenerated s.counter d)).holdsChain selects.le_ten
  refine ⟨_, exec_genHotp_of (checkGenerate_of key len selects.digitCount_eq), mac, code, ?_, Status.succeeded_toWord,
    ?_, fun a codeMsg mac => ?_⟩
  · rw [State.succeed_valid, State.writeGenerated_valid]
    rfl
  · obtain ⟨m, t, v, n, x, e⟩ := s.writeGenerated_eq s.counter d
    rw [e]
    rfl
  · rw [State.succeed_readByte, s.writeGenerated_readByte_outside _ d codeMsg mac]

/-- Settles O56: the chain runs for the time step, and COUNTER takes that time step after it. -/
theorem genTotpWritesTheChainAndTheCounter : Obligations.GenTotpWritesTheChainAndTheCounter := by
  intro s d key len selects
  have keeps := (State.keepsResults_setCounter (s.writeGenerated (timeStep s.time) d) (timeStep s.time)).trans
    (State.keepsResults_succeed _)
  have counter : ((s.writeGenerated (timeStep s.time) d).setCounter (timeStep s.time)).succeed.counter =
      timeStep s.time := by
    rw [State.counter_succeed, State.counter_setCounter]
  obtain ⟨mac, code⟩ := keeps.holdsChain selects.le_ten
  refine ⟨_, exec_genTotp_of (checkGenerate_of key len selects.digitCount_eq), ?_, counter.symm ▸ mac, code, ?_,
    Status.succeeded_toWord, ?_, fun a codeMsg mac => ?_⟩
  · rw [counter, timeStep_toNat, State.time_toNat]
  · rw [State.succeed_valid, State.setCounter_valid, State.writeGenerated_valid]
    rfl
  · obtain ⟨m, t, v, n, x, e⟩ := s.writeGenerated_eq (timeStep s.time) d
    rw [e]
    rfl
  · rw [State.succeed_readByte, State.setCounter_readByte, s.writeGenerated_readByte_outside _ d codeMsg mac]

theorem State.writeCode_setValid (s : State) (v : Valid) (mac : List Byte) (d : Nat) :
    (s.setValid v).writeCode mac d = (s.writeCode mac d).setValid v := by
  rw [State.writeCode, State.storeBytes_setValid]
  rfl

theorem State.writeCode_succeed (s : State) (mac : List Byte) (d : Nat) :
    s.succeed.writeCode mac d = (s.writeCode mac d).succeed := by
  rw [State.writeCode, State.storeBytes_succeed]
  rfl

/-- Of two completions in a row the later one's VALID and STATUS stand. -/
theorem State.setValid_succeed_twice (s : State) (v v' : Valid) :
    ((s.setValid v).succeed.setValid v').succeed = (s.setValid v').succeed := rfl

/-- Settles O57: TRUNC reads the very MAC that HMAC_CTR wrote, and between them only VALID and STATUS are written, which
the chain overwrites. -/
theorem genHotpIsHmacCtrThenTrunc : Obligations.GenHotpIsHmacCtrThenTrunc := by
  intro s d key len selects
  have digits := selects.digitCount_eq
  let t := ((s.writeMac s.counter).setValid (s.valid.setMac true)).succeed
  have sameDigits : t.digitSelector = s.digitSelector := by
    rw [State.digitSelector, State.digitSelector, State.succeed_digits, State.setValid_digits, State.writeMac_digits]
  have mac : t.macBytes = hmacSha1 s.keyBytes (serialize s.counter) := by
    rw [← s.writeMac_macBytes, State.macBytes, State.readBytes_succeed, State.readBytes_setValid, State.macBytes]
  refine ⟨t, _, ?_, ?_, exec_genHotp_of (checkGenerate_of key len digits)⟩
  · rw [exec_eq, runCommand, runHmacCtr_of key len, State.complete_ok]
  · rw [exec_eq, runCommand, runTrunc_of rfl (sameDigits ▸ digits), State.complete_ok, mac, State.writeCode_succeed,
      State.writeCode_setValid, State.setValid_succeed_twice]
    rfl

theorem State.writeGenerated_setCounter (s : State) (c' c : Wide) (d : Nat) :
    (s.setCounter c').writeGenerated c d = (s.writeGenerated c d).setCounter c' := by
  have key : (s.setCounter c').keyBytes = s.keyBytes := State.readBytes_setCounter _ _ _ _
  rw [State.writeGenerated, State.writeGenerated, State.writeMac, State.writeCode, key, State.storeBytes_setCounter,
    State.storeBytes_setCounter, State.storeBytes_setCounter]
  rfl

/-- Settles O58: two words that hold the time step are its halves, and the chain does not touch COUNTER. -/
theorem genTotpIsGenHotpAtTheTimeStep : Obligations.GenTotpIsGenHotpAtTheTimeStep := by
  intro s d hi lo key len selects halves
  have step : hi ++ lo = timeStep s.time := by
    apply BitVec.eq_of_toNat_eq
    rw [toNat_append_mul, halves, timeStep_toNat, State.time_toNat]
  have counter : { s with counterHi := hi, counterLo := lo } = s.setCounter (timeStep s.time) := by
    rw [State.setCounter, ← step, BitVec.extractLsb'_append_eq_left, BitVec.extractLsb'_append_eq_right]
  have digits := selects.digitCount_eq
  rw [counter, exec_genTotp_of (checkGenerate_of key len digits),
    exec_genHotp_of (checkGenerate_of (s := s.setCounter (timeStep s.time)) key len digits), State.counter_setCounter,
    State.writeGenerated_setCounter]

end Sys2Proof.Machine
end

section
/-! PROOF. The results of a command depend on its operands alone (44_code_generation.md R79). -/

namespace Sys2Proof.Machine

theorem SameMac.transport {s t s' t' : State} (h : SameMac s t) (h' : SameMac s' t') (same : SameMac s s') :
    SameMac t t' := by
  obtain ⟨msg, mac⟩ := h
  obtain ⟨msg', mac'⟩ := h'
  rwa [SameMac, msg, mac, msg', mac'] at same

theorem SameCode.transport {s t s' t' : State} (h : SameCode s t) (h' : SameCode s' t') (same : SameCode s s') :
    SameCode t t' := by
  obtain ⟨trunc, value, len, code⟩ := h
  obtain ⟨trunc', value', len', code'⟩ := h'
  rwa [SameCode, trunc, value, len, code, trunc', value', len', code'] at same

/-- MSG and MAC after an HMAC computation depend on the key and the counter alone. -/
theorem sameMac_writeMac {s s' : State} (key : s.keyBytes = s'.keyBytes) (c : Wide) :
    SameMac (s.writeMac c) (s'.writeMac c) := by
  rw [SameMac, State.writeMac_msgBytes, State.writeMac_msgBytes, State.writeMac_macBytes, State.writeMac_macBytes, key]
  exact ⟨rfl, rfl⟩

/-- The code results after a truncation depend on the MAC and the digit count alone. -/
theorem sameCode_writeCode (s s' : State) (mac : List Byte) (d : Nat) :
    SameCode (s.writeCode mac d) (s'.writeCode mac d) := by
  simp only [SameCode, State.writeCode_trunc, State.writeCode_codeValue, State.writeCode_codeLen,
    State.writeCode_codeBytes, and_self]

/-- The chain's results depend on the key, the counter and the digit count alone, and so they do wherever they are left
alone. -/
theorem KeepsResults.sameChain {s s' t t' : State} {c : Wide} {d : Nat} (h : KeepsResults (s.writeGenerated c d) t)
    (h' : KeepsResults (s'.writeGenerated c d) t') (key : s.keyBytes = s'.keyBytes) : SameMac t t' ∧ SameCode t t' := by
  obtain ⟨mac, code⟩ := h
  obtain ⟨mac', code'⟩ := h'
  constructor
  · have chain := (s.writeGenerated_sameMac c d).transport (s'.writeGenerated_sameMac c d) (sameMac_writeMac key c)
    exact mac.transport mac' chain
  · have chain : SameCode (s.writeGenerated c d) (s'.writeGenerated c d) :=
      (s.writeGenerated_sameCode c d).transport (s'.writeGenerated_sameCode c d) (key ▸ sameCode_writeCode _ _ _ d)
    exact code.transport code' chain

/-- Two runs of command i raise the same error, or both write and leave the same results. -/
def SameOutcome (i : Instr) (r r' : Except CmdError State) : Prop :=
  (∃ e, r = .error e ∧ r' = .error e) ∨ ∃ u u', r = .ok u ∧ r' = .ok u' ∧ SameResults i u.succeed u'.succeed

/-- Where the checks of two runs answer the same, it is enough that the writes leave the same results. -/
theorem sameOutcome_map {α : Type} {i : Instr} {r : Except CmdError α} {f f' : α → State}
    (same : ∀ a, r = .ok a → SameResults i (f a).succeed (f' a).succeed) : SameOutcome i (r.map f) (r.map f') := by
  cases r with
  | error e => exact .inl ⟨e, rfl, rfl⟩
  | ok a => exact .inr ⟨f a, f' a, rfl, rfl, same a rfl⟩

/-- Failures with one error of one command leave the same results: STATUS, and the cleared bits. -/
theorem sameResults_fail (i : Instr) (s s' : State) (e : CmdError) :
    SameResults i (s.fail e (Valid.clearedBy i)) (s'.fail e (Valid.clearedBy i)) := by
  have failed : ¬(Status.failed e).err = false := nofun
  cases i with
  | decode => exact ⟨rfl, rfl, fun ok => absurd ok failed⟩
  | hmacCtr => exact ⟨rfl, rfl, fun ok => absurd ok failed⟩
  | trunc => exact ⟨rfl, rfl, fun ok => absurd ok failed⟩
  | genHotp => exact ⟨rfl, rfl, rfl, fun ok => absurd ok failed⟩
  | genTotp => exact ⟨rfl, rfl, rfl, fun ok => absurd ok failed⟩

theorem SameOutcome.complete {i : Instr} {r r' : Except CmdError State} (h : SameOutcome i r r') (s s' : State) :
    SameResults i (s.complete i r) (s'.complete i r') := by
  obtain ⟨e, rfl, rfl⟩ | ⟨u, u', rfl, rfl, same⟩ := h
  · exact sameResults_fail i s s' e
  · exact same

/-! Each command's run as its checks, then its writes. -/

theorem runDecode_eq_map (s : State) : runDecode s =
    if s.config.secretMax < s.secretLen.toNat then .error .length else (decodeSecret s.secretBytes).map s.writeKey := by
  unfold runDecode
  cases decodeSecret s.secretBytes <;> rfl

theorem runHmacCtr_eq_map (s : State) : runHmacCtr s =
    (checkKey s).map fun _ => (s.writeMac s.counter).setValid (s.valid.setMac true) := by
  unfold runHmacCtr
  cases checkKey s <;> rfl

theorem runTrunc_eq_map (s : State) : runTrunc s =
    if s.valid.mac = false then .error .noMac
    else (digitCount s.digitSelector).map fun d => (s.writeCode s.macBytes d).setValid (s.valid.setCode true) := by
  unfold runTrunc
  cases digitCount s.digitSelector <;> rfl

theorem runGenHotp_eq_map (s : State) : runGenHotp s = (checkGenerate s).map (s.writeGenerated s.counter) := by
  unfold runGenHotp
  cases checkGenerate s <;> rfl

theorem runGenTotp_eq_map (s : State) : runGenTotp s =
    (checkGenerate s).map fun d => (s.writeGenerated (timeStep s.time) d).setCounter (timeStep s.time) := by
  unfold runGenTotp
  cases checkGenerate s <;> rfl

theorem checkKey_congr {s s' : State} (config : s.config = s'.config) (same : SameKey s s') :
    checkKey s = checkKey s' := by
  obtain ⟨valid, len, -⟩ := same
  rw [checkKey, checkKey, valid, len, config]

theorem checkGenerate_congr {s s' : State} (config : s.config = s'.config) (same : SameKey s s')
    (digits : s.digits = s'.digits) : checkGenerate s = checkGenerate s' := by
  rw [checkGenerate, checkGenerate, checkKey_congr config same, State.digitSelector, State.digitSelector, digits]

theorem State.keyBytes_succeed (s : State) : s.succeed.keyBytes = s.keyBytes := State.readBytes_succeed _ _ _

/-- Every success reports the same STATUS (R81). -/
theorem sameStatus_succeed (u u' : State) : u.succeed.status = u'.succeed.status := rfl

/-! What each command's run does is a matter of its operands. -/

theorem runDecode_sameOutcome {s s' : State} (wf : s.config.wf = true) (same : SameOperands .decode s s') :
    SameOutcome .decode (runDecode s) (runDecode s') := by
  obtain ⟨config, len, secret⟩ := same
  simp only [runDecode_eq_map, ← config, ← len, ← secret]
  split
  · exact .inl ⟨_, rfl, rfl⟩
  · next short =>
    refine sameOutcome_map fun k key => ⟨sameStatus_succeed _ _, ?valid, fun _ => ⟨?len, ?key⟩⟩
    case valid => simp only [State.succeed_valid, State.writeKey_valid, Valid.setKey]
    case len => rw [State.succeed_keyLen, State.succeed_keyLen, State.writeKey_keyLen, State.writeKey_keyLen]
    case key =>
      have fits := decodedKey_le_keyMax wf (Nat.not_lt.mp short) key
      rw [State.keyBytes_succeed, State.keyBytes_succeed, State.writeKey_keyBytes wf fits,
        State.writeKey_keyBytes (config ▸ wf) (config ▸ fits)]

theorem runHmacCtr_sameOutcome {s s' : State} (same : SameOperands .hmacCtr s s') :
    SameOutcome .hmacCtr (runHmacCtr s) (runHmacCtr s') := by
  obtain ⟨config, ⟨valid, len, key⟩, hi, lo⟩ := same
  have counter : s.counter = s'.counter := by rw [State.counter, State.counter, hi, lo]
  simp only [runHmacCtr_eq_map, ← checkKey_congr config ⟨valid, len, key⟩, ← counter]
  refine sameOutcome_map fun _ _ => ⟨sameStatus_succeed _ _, ?valid, fun _ => ?mac⟩
  case valid => simp only [State.succeed_valid, State.setValid_valid, Valid.setMac]
  case mac =>
    obtain ⟨mac, -⟩ := (s.writeMac s.counter).keepsResults_completed (s.valid.setMac true)
    obtain ⟨mac', -⟩ := (s'.writeMac s.counter).keepsResults_completed (s'.valid.setMac true)
    exact mac.transport mac' (sameMac_writeMac key s.counter)

theorem runTrunc_sameOutcome {s s' : State} (same : SameOperands .trunc s s') :
    SameOutcome .trunc (runTrunc s) (runTrunc s') := by
  obtain ⟨config, valid, mac, digits⟩ := same
  simp only [runTrunc_eq_map, State.digitSelector, ← valid, ← mac, ← digits]
  split
  · exact .inl ⟨_, rfl, rfl⟩
  · refine sameOutcome_map fun d _ => ⟨sameStatus_succeed _ _, ?valid, fun _ => ?code⟩
    case valid => simp only [State.succeed_valid, State.setValid_valid, Valid.setCode]
    case code =>
      obtain ⟨-, code⟩ := (s.writeCode s.macBytes d).keepsResults_completed (s.valid.setCode true)
      obtain ⟨-, code'⟩ := (s'.writeCode s.macBytes d).keepsResults_completed (s'.valid.setCode true)
      exact code.transport code' (sameCode_writeCode s s' s.macBytes d)

theorem runGenHotp_sameOutcome {s s' : State} (same : SameOperands .genHotp s s') :
    SameOutcome .genHotp (runGenHotp s) (runGenHotp s') := by
  obtain ⟨config, ⟨valid, len, key⟩, hi, lo, digits⟩ := same
  have counter : s.counter = s'.counter := by rw [State.counter, State.counter, hi, lo]
  simp only [runGenHotp_eq_map, ← checkGenerate_congr config ⟨valid, len, key⟩ digits, ← counter]
  refine sameOutcome_map fun d _ => ⟨sameStatus_succeed _ _, ?mac, ?code, fun _ => ?chain⟩
  case mac | code => simp only [State.succeed_valid, State.writeGenerated_valid, Valid.setMacCode]
  case chain => exact (State.keepsResults_succeed _).sameChain (State.keepsResults_succeed _) key

theorem runGenTotp_sameOutcome {s s' : State} (same : SameOperands .genTotp s s') :
    SameOutcome .genTotp (runGenTotp s) (runGenTotp s') := by
  obtain ⟨config, ⟨valid, len, key⟩, hi, lo, digits⟩ := same
  have step : s.time = s'.time := by rw [State.time, State.time, hi, lo]
  have keeps (u : State) : KeepsResults u (u.setCounter (timeStep s.time)).succeed :=
    (u.keepsResults_setCounter _).trans (State.keepsResults_succeed _)
  simp only [runGenTotp_eq_map, ← checkGenerate_congr config ⟨valid, len, key⟩ digits, ← step]
  refine sameOutcome_map fun d _ => ⟨sameStatus_succeed _ _, ?mac, ?code, fun _ => ?chain⟩
  case mac | code =>
    simp only [State.succeed_valid, State.setCounter_valid, State.writeGenerated_valid, Valid.setMacCode]
  case chain =>
    obtain ⟨mac, code⟩ := (keeps _).sameChain (keeps _) key
    refine ⟨mac, code, ?hi, ?lo⟩
    case hi => simp only [State.succeed_counterHi, State.setCounter_counterHi]
    case lo => simp only [State.succeed_counterLo, State.setCounter_counterLo]

/-- States that agree in the operands of a command run it to the same end (R79). -/
theorem SameOperands.sameOutcome {i : Instr} {s s' : State} (wf : s.config.wf = true) (same : SameOperands i s s') :
    SameOutcome i (runCommand i s) (runCommand i s') := by
  cases i with
  | decode => exact runDecode_sameOutcome wf same
  | hmacCtr => exact runHmacCtr_sameOutcome same
  | trunc => exact runTrunc_sameOutcome same
  | genHotp => exact runGenHotp_sameOutcome same
  | genTotp => exact runGenTotp_sameOutcome same

/-- Settles O59: exec answers the two completions, and what their runs do is a matter of the operands. -/
theorem resultsDependOnOperandsAlone : Obligations.ResultsDependOnOperandsAlone := fun i s s' wf same =>
  ⟨_, _, exec_eq i s, exec_eq i s', (same.sameOutcome wf).complete s s'⟩

end Sys2Proof.Machine
end

section
/-! PROOF. The same command again leaves the same state (44_code_generation.md R79). -/

namespace Sys2Proof.Machine

/-! ## What a store leaves listed -/

/-- The byte a canonical list gives offset a after b is stored there: no cell for a zero of CODE, MSG or MAC. -/
def listedByte (c : Config) (a : Nat) (b : Byte) : Option Byte :=
  if isRam c a = true then some b else if b = 0#8 then none else some b

theorem Memory.lookup_write_self (c : Config) (m : Memory) (a : Nat) (b : Byte) :
    (m.write c a b).lookup a = listedByte c a b := by
  unfold Memory.write listedByte
  split
  · exact Memory.lookup_insert_self m a b
  · split
    · exact Memory.lookup_erase_self m a
    · exact Memory.lookup_insert_self m a b

theorem State.lookup_storeByte (s : State) (a x : Nat) (b : Byte) : (s.storeByte a b).mem.lookup x =
    if x = a ∧ isBuffer s.config a = true then listedByte s.config a b else s.mem.lookup x := by
  by_cases ok : isBuffer s.config a = true
  · rw [State.storeByte, if_pos ok]
    by_cases e : x = a
    · rw [e, if_pos ⟨rfl, ok⟩, Memory.lookup_write_self]
    · rw [if_neg fun h => e h.1, Memory.lookup_write_of_ne _ _ _ e]
  · rw [State.storeByte, if_neg ok, if_neg fun h => ok h.2]

/-- What a store of several bytes does to every cell. -/
theorem State.lookup_storeBytes (s : State) (a : Nat) (bs : List Byte) (x : Nat) :
    (s.storeBytes a bs).mem.lookup x =
      if a ≤ x ∧ x < a + bs.length ∧ isBuffer s.config x = true then listedByte s.config x (bs.getD (x - a) 0#8)
      else s.mem.lookup x := by
  induction bs generalizing s a with
  | nil => rw [if_neg (by simp only [List.length_nil]; omega), State.storeBytes]
  | cons b bs ih =>
    rw [State.storeBytes, ih, State.storeByte_config, State.lookup_storeByte, List.length_cons]
    obtain lt | rfl | gt := Nat.lt_trichotomy x a
    · rw [if_neg (by omega), if_neg (by omega), if_neg (by omega)]
    · rw [if_neg (by omega), Nat.sub_self, List.getD_cons_zero]
      simp
    · obtain ⟨i, rfl⟩ := Nat.exists_eq_add_of_lt gt
      rw [show a + i + 1 - a = i + 1 by omega, show a + i + 1 - (a + 1) = i by omega, List.getD_cons_succ,
        if_neg (c := a + i + 1 = a ∧ _) (by omega)]
      exact if_congr (and_congr (by omega) (and_congr_left fun _ => by omega)) rfl rfl

/-- The cells list bs from offset a on, as a store of them there would leave it. -/
def State.Lists (s : State) (a : Nat) (bs : List Byte) : Prop :=
  ∀ x, a ≤ x → x < a + bs.length → isBuffer s.config x = true →
    s.mem.lookup x = listedByte s.config x (bs.getD (x - a) 0#8)

theorem State.lists_storeBytes (s : State) (a : Nat) (bs : List Byte) : (s.storeBytes a bs).Lists a bs := by
  intro x lo hi ok
  rw [State.storeBytes_config] at ok
  rw [State.lookup_storeBytes, State.storeBytes_config, if_pos ⟨lo, hi, ok⟩]

/-- A store elsewhere leaves bytes listed. -/
theorem State.Lists.storeBytes {s : State} {a a' : Nat} {bs bs' : List Byte} (h : s.Lists a bs)
    (outside : a + bs.length ≤ a' ∨ a' + bs'.length ≤ a) : (s.storeBytes a' bs').Lists a bs := by
  intro x lo hi ok
  rw [State.storeBytes_config] at ok
  rw [State.lookup_storeBytes, State.storeBytes_config, if_neg (by omega), h x lo hi ok]

theorem State.Lists.congr {s t : State} {a : Nat} {bs : List Byte} (h : s.Lists a bs) (mem : t.mem = s.mem)
    (config : t.config = s.config) : t.Lists a bs := by
  rwa [State.Lists, mem, config]

/-- A store of bytes a canonical list already lists changes nothing. -/
theorem State.Lists.storeBytes_eq {s : State} {a : Nat} {bs : List Byte} (h : s.Lists a bs)
    (wf : s.mem.wf s.config = true) : s.storeBytes a bs = s := by
  have cells : (s.storeBytes a bs).mem = s.mem := by
    refine Memory.ext_of_wf (State.wf_storeBytes wf) wf fun x => ?_
    rw [State.lookup_storeBytes]
    split
    · next inside =>
      obtain ⟨lo, hi, ok⟩ := inside
      exact (h x lo hi ok).symm
    · rfl
  obtain ⟨m, e⟩ := s.storeBytes_eq a bs
  have same : m = s.mem := by rw [← cells, e]
  rw [e, same]

/-! ## Writes done twice -/

theorem State.setValid_eq_self {s : State} {v : Valid} (h : s.valid = v) : s.setValid v = s := by
  subst h
  rfl

/-- The cells list KEY and the registers hold its length and validity, as a DECODE of k leaves them. -/
structure State.ListsKey (s : State) (k : List Byte) : Prop where
  key : s.Lists keyBase k
  len : s.keyLen = BitVec.ofNat 16 k.length
  valid : s.valid = s.valid.setKey true

/-- The cells list MSG and MAC as an HMAC computation for counter c leaves them. -/
structure State.ListsMac (s : State) (key : List Byte) (c : Wide) : Prop where
  msg : s.Lists msgBase (serialize c)
  mac : s.Lists macBase (hmacSha1 key (serialize c))

/-- The cells list CODE and the registers hold the code as a truncation of mac to d digits leaves them. -/
structure State.ListsCode (s : State) (mac : List Byte) (d : Nat) : Prop where
  text : s.Lists codeBase (codeText (codeValueOf (truncatedValue mac) d) d)
  trunc : s.trunc = truncatedValue mac
  value : s.codeValue = BitVec.ofNat 32 (codeValueOf (truncatedValue mac) d)
  len : s.codeLen = BitVec.ofNat 4 d

theorem State.ListsKey.writeKey_eq {s : State} {k : List Byte} (h : s.ListsKey k) (wf : s.mem.wf s.config = true) :
    s.writeKey k = s := by
  rw [State.writeKey, h.key.storeBytes_eq wf, ← h.len]
  exact State.setValid_eq_self h.valid

theorem State.ListsMac.writeMac_eq {s : State} {c : Wide} (h : s.ListsMac s.keyBytes c)
    (wf : s.mem.wf s.config = true) : s.writeMac c = s := by
  rw [State.writeMac, h.msg.storeBytes_eq wf, h.mac.storeBytes_eq wf]

theorem State.ListsCode.writeCode_eq {s : State} {mac : List Byte} {d : Nat} (h : s.ListsCode mac d)
    (wf : s.mem.wf s.config = true) : s.writeCode mac d = s := by
  rw [State.writeCode, h.text.storeBytes_eq wf, ← h.value, ← h.len, ← h.trunc]
  rfl

theorem State.writeKey_listsKey (s : State) (k : List Byte) : (s.writeKey k).ListsKey k where
  key := (s.lists_storeBytes keyBase k).congr (s.writeKey_mem k)
    (by rw [State.writeKey_config, State.storeBytes_config])
  len := s.writeKey_keyLen k
  valid := by rw [State.writeKey_valid]; rfl

theorem State.writeMac_listsMac (s : State) (c : Wide) : (s.writeMac c).ListsMac s.keyBytes c where
  msg := (s.lists_storeBytes msgBase (serialize c)).storeBytes (.inl (by rw [serialize_length]; decide))
  mac := State.lists_storeBytes _ macBase _

theorem State.writeCode_listsCode (s : State) (mac : List Byte) (d : Nat) : (s.writeCode mac d).ListsCode mac d where
  text := (s.lists_storeBytes codeBase _).congr (s.writeCode_mem mac d)
    (by rw [State.writeCode_config, State.storeBytes_config])
  trunc := s.writeCode_trunc mac d
  value := s.writeCode_codeValue mac d
  len := s.writeCode_codeLen mac d

theorem State.ListsKey.succeed {s : State} {k : List Byte} (h : s.ListsKey k) : s.succeed.ListsKey k :=
  ⟨h.key.congr rfl rfl, h.len, h.valid⟩

theorem State.ListsMac.congr {s t : State} {key : List Byte} {c : Wide} (h : s.ListsMac key c) (mem : t.mem = s.mem)
    (config : t.config = s.config) : t.ListsMac key c :=
  ⟨h.msg.congr mem config, h.mac.congr mem config⟩

/-- The writes of a truncation leave MSG and MAC listed. -/
theorem State.ListsMac.writeCode {s : State} {key : List Byte} {c : Wide} (h : s.ListsMac key c) (mac : List Byte)
    (d : Nat) : (s.writeCode mac d).ListsMac key c := by
  have stored : (s.storeBytes codeBase (codeText (codeValueOf (truncatedValue mac) d) d)).ListsMac key c :=
    ⟨h.msg.storeBytes (.inr (by rw [codeText_length]; decide)),
      h.mac.storeBytes (.inr (by rw [codeText_length]; decide))⟩
  exact stored.congr (s.writeCode_mem mac d) (by rw [State.writeCode_config, State.storeBytes_config])

theorem State.ListsCode.congr {s t : State} {mac : List Byte} {d : Nat} (h : s.ListsCode mac d) (mem : t.mem = s.mem)
    (config : t.config = s.config) (trunc : t.trunc = s.trunc) (value : t.codeValue = s.codeValue)
    (len : t.codeLen = s.codeLen) : t.ListsCode mac d :=
  ⟨h.text.congr mem config, trunc.trans h.trunc, value.trans h.value, len.trans h.len⟩

theorem State.ListsMac.setValid {s : State} {key : List Byte} {c : Wide} (h : s.ListsMac key c) (v : Valid) :
    (s.setValid v).ListsMac key c := h.congr rfl rfl

theorem State.ListsCode.setValid {s : State} {mac : List Byte} {d : Nat} (h : s.ListsCode mac d) (v : Valid) :
    (s.setValid v).ListsCode mac d := h.congr rfl rfl rfl rfl rfl

theorem State.ListsMac.succeed {s : State} {key : List Byte} {c : Wide} (h : s.ListsMac key c) :
    s.succeed.ListsMac key c := h.congr rfl rfl

theorem State.ListsCode.succeed {s : State} {mac : List Byte} {d : Nat} (h : s.ListsCode mac d) :
    s.succeed.ListsCode mac d := h.congr rfl rfl rfl rfl rfl

/-- The results of the chain are listed: MSG and MAC, and the code of that MAC. -/
structure State.ListsChain (s : State) (key : List Byte) (c : Wide) (d : Nat) : Prop where
  mac : s.ListsMac key c
  code : s.ListsCode (hmacSha1 key (serialize c)) d
  valid : s.valid = s.valid.setMacCode true

theorem State.ListsChain.writeGenerated_eq {s : State} {c : Wide} {d : Nat} (h : s.ListsChain s.keyBytes c d)
    (wf : s.mem.wf s.config = true) : s.writeGenerated c d = s := by
  rw [State.writeGenerated, h.mac.writeMac_eq wf, h.code.writeCode_eq wf]
  exact State.setValid_eq_self h.valid

theorem State.writeGenerated_listsChain (s : State) (c : Wide) (d : Nat) :
    (s.writeGenerated c d).ListsChain s.keyBytes c d where
  mac := ((s.writeMac_listsMac c).writeCode _ d).setValid _
  code := (State.writeCode_listsCode _ _ d).setValid _
  valid := by rw [State.writeGenerated_valid]; rfl

theorem State.ListsChain.succeed {s : State} {key : List Byte} {c : Wide} {d : Nat} (h : s.ListsChain key c d) :
    s.succeed.ListsChain key c d :=
  ⟨h.mac.succeed, h.code.succeed, h.valid⟩

theorem State.ListsChain.setCounter {s : State} {key : List Byte} {c : Wide} {d : Nat} (h : s.ListsChain key c d)
    (c' : Wide) : (s.setCounter c').ListsChain key c d :=
  ⟨h.mac.congr rfl rfl, h.code.congr rfl rfl rfl rfl rfl, h.valid⟩

theorem State.setCounter_eq_self {s : State} {c : Wide} (h : s.counter = c) : s.setCounter c = s := by
  subst h
  rw [State.setCounter, State.counter, BitVec.extractLsb'_append_eq_left, BitVec.extractLsb'_append_eq_right]

/-! ## A command done again -/

theorem State.wf_writeGenerated {s : State} (wf : s.mem.wf s.config = true) (c : Wide) (d : Nat) :
    (s.writeGenerated c d).mem.wf (s.writeGenerated c d).config = true := by
  rw [State.writeGenerated, State.setValid_mem, State.setValid_config]
  exact State.wf_writeCode (State.wf_writeMac wf c) _ d

/-- A command that succeeds keeps the cells canonical. -/
theorem runCommand_ok_wf {i : Instr} {s u : State} (wf : s.mem.wf s.config = true) (h : runCommand i s = .ok u) :
    u.mem.wf u.config = true := by
  cases i with
  | decode =>
    obtain ⟨-, k, -, rfl⟩ := runDecode_ok h
    exact State.wf_writeKey wf k
  | hmacCtr =>
    obtain ⟨-, -, rfl⟩ := runHmacCtr_ok h
    rw [State.setValid_mem, State.setValid_config]
    exact State.wf_writeMac wf _
  | trunc =>
    obtain ⟨-, d, -, rfl⟩ := runTrunc_ok h
    rw [State.setValid_mem, State.setValid_config]
    exact State.wf_writeCode wf _ d
  | genHotp =>
    obtain ⟨d, -, rfl⟩ := runGenHotp_ok h
    exact State.wf_writeGenerated wf _ d
  | genTotp =>
    obtain ⟨d, -, rfl⟩ := runGenTotp_ok h
    rw [State.setCounter_mem, State.setCounter_config]
    exact State.wf_writeGenerated wf _ d

/-- A change of no KEY byte and of no key register keeps the key. -/
theorem sameKey_of_readByte {s t : State} (valid : t.valid.key = s.valid.key) (len : t.keyLen = s.keyLen)
    (bytes : ∀ a, keyBase ≤ a → t.readByte a = s.readByte a) : SameKey s t := by
  refine ⟨valid.symm, len.symm, ?_⟩
  rw [State.keyBytes, State.keyBytes, len]
  exact (State.readBytes_congr fun i _ => bytes _ (Nat.le_add_right _ _)).symm

theorem State.writeMac_sameKey (s : State) (c : Wide) : SameKey s (s.writeMac c) :=
  sameKey_of_readByte (by rw [State.writeMac_valid]) (s.writeMac_keyLen c) fun _ h =>
    s.writeMac_readByte_outside c (.inr (Nat.le_trans (by decide) h)) (.inr (Nat.le_trans (by decide) h))

theorem State.writeGenerated_sameKey (s : State) (c : Wide) (d : Nat) : SameKey s (s.writeGenerated c d) :=
  sameKey_of_readByte (by rw [State.writeGenerated_valid]; rfl) (s.writeGenerated_keyLen c d) fun _ h =>
    s.writeGenerated_readByte_outside c d (.inr (Nat.le_trans (by decide) h)) (.inr (Nat.le_trans (by decide) h))

theorem State.writeKey_secretBytes {s : State} (k : List Byte) (wf : s.config.wf = true)
    (len : s.secretLen.toNat ≤ s.config.secretMax) : (s.writeKey k).secretBytes = s.secretBytes := by
  simp only [Config.wf, Bool.and_eq_true, decide_eq_true_eq] at wf
  rw [State.secretBytes, State.secretBytes, State.writeKey_secretLen]
  refine State.readBytes_congr fun i hi => s.writeKey_readByte_outside k (.inl ?_)
  rw [secretBase, keyBase]
  omega

theorem State.secretBytes_succeed (s : State) : s.succeed.secretBytes = s.secretBytes := State.readBytes_succeed _ _ _

theorem SameKey.trans {s t u : State} (h : SameKey s t) (h' : SameKey t u) : SameKey s u := by
  obtain ⟨valid, len, key⟩ := h
  obtain ⟨valid', len', key'⟩ := h'
  exact ⟨valid.trans valid', len.trans len', key.trans key'⟩

theorem State.sameKey_succeed (s : State) : SameKey s s.succeed := sameKey_of_readByte rfl rfl fun _ _ => rfl

theorem State.sameKey_setValid {s : State} {v : Valid} (h : v.key = s.valid.key) : SameKey s (s.setValid v) :=
  sameKey_of_readByte h rfl fun _ _ => rfl

theorem State.sameKey_setCounter (s : State) (c : Wide) : SameKey s (s.setCounter c) :=
  sameKey_of_readByte rfl rfl fun _ _ => rfl

/-- A command that succeeds leaves its own operands as they were; the COUNTER that GEN_TOTP writes is none (R45). -/
theorem sameOperands_of_ok {i : Instr} {s u : State} (wf : s.config.wf = true) (h : runCommand i s = .ok u) :
    SameOperands i s u.succeed := by
  refine ⟨(runCommand_ok_config h).symm, ?_⟩
  cases i with
  | decode =>
    obtain ⟨len, k, -, rfl⟩ := runDecode_ok h
    rw [State.succeed_secretLen, State.writeKey_secretLen, State.secretBytes_succeed,
      State.writeKey_secretBytes k wf len]
    exact ⟨rfl, rfl⟩
  | hmacCtr =>
    obtain ⟨-, -, rfl⟩ := runHmacCtr_ok h
    have valid : (s.valid.setMac true).key = (s.writeMac s.counter).valid.key := by rw [State.writeMac_valid]; rfl
    refine ⟨((s.writeMac_sameKey _).trans (State.sameKey_setValid valid)).trans (State.sameKey_succeed _), ?_, ?_⟩
    · rw [State.succeed_counterHi, State.setValid_counterHi, State.writeMac_counterHi]
    · rw [State.succeed_counterLo, State.setValid_counterLo, State.writeMac_counterLo]
  | trunc =>
    obtain ⟨-, d, -, rfl⟩ := runTrunc_ok h
    obtain ⟨-, mac⟩ := s.writeCode_sameMac s.macBytes d
    obtain ⟨⟨-, mac'⟩, -⟩ := (s.writeCode s.macBytes d).keepsResults_completed (s.valid.setCode true)
    refine ⟨?_, mac.trans mac', ?_⟩
    · rw [State.succeed_valid, State.setValid_valid, Valid.setCode]
    · rw [State.succeed_digits, State.setValid_digits, State.writeCode_digits]
  | genHotp =>
    obtain ⟨d, -, rfl⟩ := runGenHotp_ok h
    refine ⟨(s.writeGenerated_sameKey _ d).trans (State.sameKey_succeed _), ?_, ?_, ?_⟩
    · rw [State.succeed_counterHi, State.writeGenerated_counterHi]
    · rw [State.succeed_counterLo, State.writeGenerated_counterLo]
    · rw [State.succeed_digits, State.writeGenerated_digits]
  | genTotp =>
    obtain ⟨d, -, rfl⟩ := runGenTotp_ok h
    have key := (s.writeGenerated_sameKey (timeStep s.time) d).trans (State.sameKey_setCounter _ (timeStep s.time))
    refine ⟨key.trans (State.sameKey_succeed _), ?_, ?_, ?_⟩
    · rw [State.succeed_timeHi, State.setCounter_timeHi, State.writeGenerated_timeHi]
    · rw [State.succeed_timeLo, State.setCounter_timeLo, State.writeGenerated_timeLo]
    · rw [State.succeed_digits, State.setCounter_digits, State.writeGenerated_digits]

/-- State t lists what command i writes for the operands in s. -/
def ListsResults (i : Instr) (s t : State) : Prop :=
  match i with
  | .decode => ∀ k, decodeSecret s.secretBytes = .ok k → t.ListsKey k
  | .hmacCtr => t.ListsMac s.keyBytes s.counter ∧ t.valid = t.valid.setMac true
  | .trunc => ∀ d, digitCount s.digitSelector = .ok d → t.ListsCode s.macBytes d ∧ t.valid = t.valid.setCode true
  | .genHotp => ∀ d, digitCount s.digitSelector = .ok d → t.ListsChain s.keyBytes s.counter d
  | .genTotp => ∀ d, digitCount s.digitSelector = .ok d →
      t.ListsChain s.keyBytes (timeStep s.time) d ∧ t.counter = timeStep s.time

theorem ListsResults.congr {i : Instr} {s s' t : State} (same : SameOperands i s s') (h : ListsResults i s t) :
    ListsResults i s' t := by
  obtain ⟨-, operands⟩ := same
  cases i with
  | decode =>
    obtain ⟨-, secret⟩ := operands
    rwa [ListsResults, ← secret]
  | hmacCtr =>
    obtain ⟨⟨-, -, key⟩, hi, lo⟩ := operands
    rwa [ListsResults, ← key, State.counter, ← hi, ← lo]
  | trunc =>
    obtain ⟨-, mac, digits⟩ := operands
    rwa [ListsResults, ← mac, State.digitSelector, ← digits]
  | genHotp =>
    obtain ⟨⟨-, -, key⟩, hi, lo, digits⟩ := operands
    rwa [ListsResults, ← key, State.counter, ← hi, ← lo, State.digitSelector, ← digits]
  | genTotp =>
    obtain ⟨⟨-, -, key⟩, hi, lo, digits⟩ := operands
    rwa [ListsResults, ← key, State.time, ← hi, ← lo, State.digitSelector, ← digits]

/-- After a command that succeeds its results are listed. -/
theorem listsResults_of_ok {i : Instr} {s u : State} (h : runCommand i s = .ok u) : ListsResults i s u.succeed := by
  cases i with
  | decode =>
    obtain ⟨-, k, key, rfl⟩ := runDecode_ok h
    intro k' key'
    obtain rfl : k = k' := Except.ok.inj (key.symm.trans key')
    exact (s.writeKey_listsKey k).succeed
  | hmacCtr =>
    obtain ⟨-, -, rfl⟩ := runHmacCtr_ok h
    exact ⟨((s.writeMac_listsMac s.counter).setValid _).succeed, rfl⟩
  | trunc =>
    obtain ⟨-, d, digits, rfl⟩ := runTrunc_ok h
    intro d' digits'
    obtain rfl : d = d' := Except.ok.inj (digits.symm.trans digits')
    exact ⟨((s.writeCode_listsCode s.macBytes d).setValid _).succeed, rfl⟩
  | genHotp =>
    obtain ⟨d, checks, rfl⟩ := runGenHotp_ok h
    obtain ⟨-, -, digits⟩ := checkGenerate_ok checks
    intro d' digits'
    obtain rfl : d = d' := Except.ok.inj (digits.symm.trans digits')
    exact (s.writeGenerated_listsChain s.counter d).succeed
  | genTotp =>
    obtain ⟨d, checks, rfl⟩ := runGenTotp_ok h
    obtain ⟨-, -, digits⟩ := checkGenerate_ok checks
    intro d' digits'
    obtain rfl : d = d' := Except.ok.inj (digits.symm.trans digits')
    refine ⟨((s.writeGenerated_listsChain (timeStep s.time) d).setCounter _).succeed, ?_⟩
    rw [State.counter_succeed, State.counter_setCounter]

/-- A command whose results are listed already writes nothing new. -/
theorem ListsResults.run_eq {i : Instr} {t u : State} (lists : ListsResults i t t) (wf : t.mem.wf t.config = true)
    (h : runCommand i t = .ok u) : u = t := by
  cases i with
  | decode =>
    obtain ⟨-, k, key, rfl⟩ := runDecode_ok h
    exact (lists k key).writeKey_eq wf
  | hmacCtr =>
    obtain ⟨-, -, rfl⟩ := runHmacCtr_ok h
    obtain ⟨mac, valid⟩ := lists
    rw [mac.writeMac_eq wf]
    exact State.setValid_eq_self valid
  | trunc =>
    obtain ⟨-, d, digits, rfl⟩ := runTrunc_ok h
    obtain ⟨code, valid⟩ := lists d digits
    rw [code.writeCode_eq wf]
    exact State.setValid_eq_self valid
  | genHotp =>
    obtain ⟨d, checks, rfl⟩ := runGenHotp_ok h
    obtain ⟨-, -, digits⟩ := checkGenerate_ok checks
    exact (lists d digits).writeGenerated_eq wf
  | genTotp =>
    obtain ⟨d, checks, rfl⟩ := runGenTotp_ok h
    obtain ⟨-, -, digits⟩ := checkGenerate_ok checks
    obtain ⟨chain, counter⟩ := lists d digits
    rw [chain.writeGenerated_eq wf]
    exact State.setCounter_eq_self counter

/-- A command that succeeded writes the same again. -/
theorem runCommand_ok_again {i : Instr} {s u : State} (cfg : s.config.wf = true) (wf : s.mem.wf s.config = true)
    (h : runCommand i s = .ok u) : runCommand i u.succeed = .ok u.succeed := by
  have same := sameOperands_of_ok cfg h
  obtain ⟨e, failed, -⟩ | ⟨-, u', -, again, -⟩ := same.sameOutcome cfg
  · rw [h] at failed
    cases failed
  · have lists := (listsResults_of_ok h).congr same
    have cells : u.mem.wf u.config = true := runCommand_ok_wf wf h
    rw [again, lists.run_eq cells again]

/-- A failure touches no operand: the VALID bits it clears are those of results (R82). -/
theorem sameOperands_fail (i : Instr) (s : State) (e : CmdError) : SameOperands i s (s.fail e (Valid.clearedBy i)) := by
  have key : s.keyBytes = (s.fail e (Valid.clearedBy i)).keyBytes := (State.readBytes_fail _ _ _ _ _).symm
  refine ⟨rfl, ?_⟩
  cases i with
  | decode => exact ⟨rfl, (State.readBytes_fail _ _ _ _ _).symm⟩
  | hmacCtr => exact ⟨⟨rfl, rfl, key⟩, rfl, rfl⟩
  | trunc => exact ⟨rfl, (State.readBytes_fail _ _ _ _ _).symm, rfl⟩
  | genHotp => exact ⟨⟨rfl, rfl, key⟩, rfl, rfl, rfl⟩
  | genTotp => exact ⟨⟨rfl, rfl, key⟩, rfl, rfl, rfl⟩

/-- A command that failed raises the same error again. -/
theorem runCommand_error_again {i : Instr} {s : State} {e : CmdError} (cfg : s.config.wf = true)
    (h : runCommand i s = .error e) : runCommand i (s.fail e (Valid.clearedBy i)) = .error e := by
  obtain ⟨e', failed, again⟩ | ⟨u, -, ok, -⟩ := (sameOperands_fail i s e).sameOutcome cfg
  · rw [h] at failed
    cases failed
    exact again
  · rw [h] at ok
    cases ok

theorem State.fail_fail (s : State) (e : CmdError) (i : Instr) :
    (s.fail e (Valid.clearedBy i)).fail e (Valid.clearedBy i) = s.fail e (Valid.clearedBy i) := by
  cases i <;> rfl

/-- Settles O60: neither completion touches an operand, so the command ends the same way; a success then stores what is
listed already, and a failure clears bits that are 0 already. -/
theorem repeatedCommandLeavesTheSameState : Obligations.RepeatedCommandLeavesTheSameState := by
  intro i s t cfg wf h
  rw [exec_eq] at h
  obtain rfl := Host.Outcome.next.inj h
  rw [exec_eq]
  cases run : runCommand i s with
  | ok u =>
    rw [State.complete_ok, runCommand_ok_again cfg wf run, State.complete_ok]
    rfl
  | error e => rw [State.complete_error, runCommand_error_again cfg run, State.complete_error, State.fail_fail]

end Sys2Proof.Machine
end

section
/-! PROOF. The completion of a command: its step, its STATUS, what a failure writes and which error it reports
(60_exceptions.md R80 to R83). -/

namespace Sys2Proof.Machine

/-! ## The completion step -/

/-- Settles O5: the step completes the pending word, and a word that decodes completes as its command. -/
theorem stepRunsTheDecodedCommand : Obligations.StepRunsTheDecodedCommand := fun _ _ _ busy turn word =>
  (step_of_engineCompletes ⟨busy, turn⟩).trans (completePending_of_decode word)

/-- What STATUS holds after a completion (R81): success, or a failure with one of the errors of R80. -/
def Status.Completed (st : Status) : Prop := st = Status.succeeded ∨ ∃ e, st = Status.failed e

theorem State.complete_status_completed (s : State) (i : Instr) (r : Except CmdError State) :
    (s.complete i r).status.Completed := by
  cases r with
  | ok u => exact .inl rfl
  | error e => exact .inr ⟨e, rfl⟩

/-- Every pending word completes, whether it decodes or not (R44, R81). -/
theorem completePending_completes (s : State) : ∃ t, completePending s = .next t ∧ t.status.Completed := by
  obtain ⟨i, -, run⟩ | ⟨r, -, run⟩ := completePending_cases s
  · exact ⟨_, run, s.complete_status_completed i (runCommand i s)⟩
  · exact ⟨_, run, .inr ⟨.illegalCmd, rfl⟩⟩

theorem CmdError.code_range (e : CmdError) : 1 ≤ e.code.toNat ∧ e.code.toNat ≤ 6 := by
  cases e <;> decide

/-- STATUS after a failure reads DONE, ERR and the code (R15, R81). -/
theorem Status.failed_toWord (e : CmdError) :
    (Status.failed e).toWord = BitVec.ofNat 32 (6 + 256 * e.code.toNat) := by
  cases e <;> decide

/-- An engine's turn in an idle block is no step of the block (R13, R81). -/
theorem step_engine_of_idle {s : State} {ts : List Turn} (idle : s.status.busy = false)
    (turn : s.schedule = .engine :: ts) : step s = .next { s with schedule := ts } := by
  simp [step, turn, engineTurn, idle]

/-- Settles O10: the step completes the pending word, and each completion leaves one of the seven words in STATUS. -/
theorem pendingCommandCompletes : Obligations.PendingCommandCompletes := by
  refine ⟨fun s ts busy turn => ?_, fun s ts => step_engine_of_idle⟩
  obtain ⟨t, run, completed⟩ := completePending_completes { s with schedule := ts }
  refine ⟨t, (step_of_engineCompletes ⟨busy, turn⟩).trans run, ?_⟩
  obtain success | ⟨e, failure⟩ := completed
  · exact .inl (success ▸ Status.succeeded_toWord)
  · exact .inr ⟨e.code.toNat, e.code_range.1, e.code_range.2, failure ▸ Status.failed_toWord e⟩

/-! ## What a failed command writes -/

/-- A command whose completion reports ERR is one whose pseudocode raised an error (R81). -/
theorem exec_of_err {i : Instr} {s t : State} (run : exec i s = .next t) (err : t.status.err = true) :
    ∃ e, t = s.fail e (Valid.clearedBy i) := by
  rw [exec_eq] at run
  obtain rfl := Host.Outcome.next.inj run
  obtain ⟨u, -, success⟩ | ⟨e, -, failure⟩ := s.complete_cases i (runCommand i s)
  · rw [success] at err
    cases err
  · exact ⟨e, failure⟩

/-- A failure writes STATUS and VALID alone (R82). -/
theorem State.fail_frame (s : State) (e : CmdError) (clear : Valid → Valid) :
    { s.fail e clear with status := s.status, valid := s.valid } = s := rfl

/-- A word that is no command is rejected by the decoder (R44). -/
theorem decode_rejects_of_no_command {w : Word} (h : ∀ i, decode w ≠ .ok i) : ∃ r, decode w = .error r := by
  cases word : decode w with
  | ok i => exact absurd word (h i)
  | error r => exact ⟨r, rfl⟩

/-- Settles O31: a completion with ERR is the failure of R82, and ILLEGAL_CMD clears no VALID bit. -/
theorem failedCommandWritesOnlyStatusAndValid : Obligations.FailedCommandWritesOnlyStatusAndValid := by
  refine ⟨fun i s t run err => ?_, fun s illegal => ?_⟩
  · obtain ⟨e, rfl⟩ := exec_of_err run err
    exact ⟨s.fail_frame e _, by cases i <;> rfl⟩
  · obtain ⟨r, reject⟩ := decode_rejects_of_no_command illegal
    exact ⟨_, completePending_of_reject reject, rfl, rfl⟩

/-! ## Which error a command reports -/

/-- The code STATUS reports for the answer of a command's checks or of its pseudocode (R80, R81). -/
def completionCode {α : Type} : Except CmdError α → Nat
  | .ok _ => 0
  | .error e => e.code.toNat

@[simp] theorem completionCode_ok {α : Type} (x : α) : completionCode (.ok x) = 0 := rfl

/-- The writes that follow the checks do not alter the code. -/
@[simp] theorem completionCode_map {α β : Type} (f : α → β) (r : Except CmdError α) :
    completionCode (r.map f) = completionCode r := by
  cases r <;> rfl

theorem reportedCode_exec (i : Instr) (s : State) :
    reportedCode (exec i s) = some (completionCode (runCommand i s)) := by
  rw [exec_eq]
  cases runCommand i s <;> rfl

/-! The checks of each command in their order (R83). -/

theorem reportedCode_illegal {s : State} (illegal : ∀ i, decode s.pending ≠ .ok i) :
    reportedCode (completePending s) = some 0x01 := by
  obtain ⟨r, reject⟩ := decode_rejects_of_no_command illegal
  rw [completePending_of_reject reject]
  rfl

theorem reportedCode_decode (s : State) : reportedCode (exec .decode s) =
    some (if s.config.secretMax < s.secretLen.toNat then 0x02 else completionCode (decodeSecret s.secretBytes)) := by
  rw [reportedCode_exec, runCommand, runDecode_eq_map]
  split
  · rfl
  · rw [completionCode_map]

theorem reportedCode_hmacCtr (s : State) : reportedCode (exec .hmacCtr s) = some (completionCode (checkKey s)) := by
  rw [reportedCode_exec, runCommand, runHmacCtr_eq_map, completionCode_map]

theorem reportedCode_trunc (s : State) : reportedCode (exec .trunc s) =
    some (if s.valid.mac = false then 0x06 else completionCode (digitCount s.digitSelector)) := by
  rw [reportedCode_exec, runCommand, runTrunc_eq_map]
  split
  · rfl
  · rw [completionCode_map]

theorem reportedCode_generate {i : Instr} (gen : i = .genHotp ∨ i = .genTotp) (s : State) :
    reportedCode (exec i s) = some (completionCode (checkGenerate s)) := by
  obtain rfl | rfl := gen
  · rw [reportedCode_exec, runCommand, runGenHotp_eq_map, completionCode_map]
  · rw [reportedCode_exec, runCommand, runGenTotp_eq_map, completionCode_map]

/-! What each check answers. -/

theorem checkKey_of_invalid {s : State} (key : s.valid.key = false) : checkKey s = .error .noKey := if_pos key

theorem checkKey_of_long {s : State} (key : s.valid.key = true) (long : s.config.keyMax < s.keyLen.toNat) :
    checkKey s = .error .length := by
  rw [checkKey, if_neg (by simp [key]), if_pos long]

theorem checkGenerate_of_checkKey_error {s : State} {e : CmdError} (h : checkKey s = .error e) :
    checkGenerate s = .error e := by
  simp only [checkGenerate, h]

theorem checkGenerate_of_checkKey_ok {s : State} {u : Unit} (h : checkKey s = .ok u) :
    checkGenerate s = digitCount s.digitSelector := by
  simp only [checkGenerate, h]

theorem completionCode_digitCount_of_gt {sel : Nat} (h : 11 ≤ sel) : completionCode (digitCount sel) = 0x05 := by
  rw [digitCount_of_gt h]
  rfl

theorem completionCode_digitCount_of_le {sel : Nat} (h : sel ≤ 10) : completionCode (digitCount sel) = 0x00 := by
  obtain rfl | pos := Nat.eq_zero_or_pos sel
  · rfl
  · rw [digitCount_of_between pos h, completionCode_ok]

theorem completionCode_decodeSecret_of_invalid {t : List Byte} (notHex : isHex t = false)
    (invalid : ∃ c ∈ strip t, b32Val c = none) : completionCode (decodeSecret t) = 0x03 := by
  rw [decodeSecret_of_not_hex (by simp [notHex]), base32Decode, (b32Values_eq_none_iff _).mpr invalid]
  rfl

theorem completionCode_decodeSecret_of_valid {t : List Byte}
    (valid : isHex t = true ∨ ∀ c ∈ strip t, b32Val c ≠ none) : completionCode (decodeSecret t) = 0x00 := by
  by_cases hex : isHex t = true
  · rw [decodeSecret_of_hex hex, completionCode_ok]
  · have chars := valid.resolve_left hex
    obtain ⟨vs, values⟩ : ∃ vs, b32Values (strip t) = some vs :=
      Option.ne_none_iff_exists'.mp fun noValues => by
        obtain ⟨c, mem, noValue⟩ := (b32Values_eq_none_iff _).mp noValues
        exact chars c mem noValue
    rw [decodeSecret_of_not_hex hex, base32Decode_of_values values, completionCode_ok]

/-- Settles O32: each command's code is that of its checks in their order, and a check that fails hides the ones after
it. -/
theorem firstFailingCheckIsReported : Obligations.FirstFailingCheckIsReported := by
  intro s
  simp only [reportedCode_decode, reportedCode_hmacCtr, reportedCode_trunc, Option.some.injEq]
  refine ⟨reportedCode_illegal, fun long => if_pos long, fun len notHex invalid => ?_, fun len valid => ?_,
    fun key => ?_, fun key long => ?_, fun key len => ?_, fun mac => if_pos mac, fun mac gt => ?_, fun mac le => ?_,
    fun i gen => ?_⟩
  · rw [if_neg (Nat.not_lt.mpr len), completionCode_decodeSecret_of_invalid notHex invalid]
  · rw [if_neg (Nat.not_lt.mpr len), completionCode_decodeSecret_of_valid valid]
  · rw [checkKey_of_invalid key]
    rfl
  · rw [checkKey_of_long key long]
    rfl
  · rw [checkKey_of key len, completionCode_ok]
  · rw [if_neg (by simp [mac]), State.digitSelector, completionCode_digitCount_of_gt gt]
  · rw [if_neg (by simp [mac]), State.digitSelector, completionCode_digitCount_of_le le]
  · rw [reportedCode_generate gen]
    simp only [Option.some.injEq]
    refine ⟨fun key => ?_, fun key long => ?_, fun key len gt => ?_, fun key len le => ?_⟩
    · rw [checkGenerate_of_checkKey_error (checkKey_of_invalid key)]
      rfl
    · rw [checkGenerate_of_checkKey_error (checkKey_of_long key long)]
      rfl
    · rw [checkGenerate_of_checkKey_ok (checkKey_of key len), State.digitSelector, completionCode_digitCount_of_gt gt]
    · rw [checkGenerate_of_checkKey_ok (checkKey_of key len), State.digitSelector, completionCode_digitCount_of_le le]

end Sys2Proof.Machine
end

section
/-! PROOF. Reset (70_reset_and_hazards.md R90, R91; 93_implementation_defined.md U8). -/

namespace Sys2Proof.Machine

/-- A reset turn resets the block, whatever its state (R91). -/
theorem step_of_reset {s : State} {ts : List Turn} (turn : s.schedule = .reset :: ts) :
    step s = .next { s with schedule := ts }.resetBlock := by
  simp [step, turn]

/-- No byte is listed after a reset: each reads as its draw or its reset value gives it. -/
theorem State.readByte_resetBlock (s : State) (a : Nat) :
    s.resetBlock.readByte a = unlistedByte s.config s.draws a := rfl

theorem State.readBytes_resetBlock (s : State) {a n : Nat} (low : a + n ≤ secretBase) :
    s.resetBlock.readBytes a n = zeros n := by
  induction n generalizing a with
  | zero => rfl
  | succ n ih =>
    have first : s.resetBlock.readByte a = 0#8 := by
      rw [State.readByte_resetBlock, unlistedByte, isRam_of_lt _ (by omega), if_neg Bool.false_ne_true]
    rw [State.readBytes, first, ih (by omega)]
    rfl

theorem Status.idle_toWord : Status.idle.toWord = 0#32 := by decide

theorem Valid.none_toWord : Valid.none.toWord = 0#32 := by decide

theorem State.readReg_resetBlock (s : State) {r : Reg} (noCaps : r ≠ .caps) : s.resetBlock.readReg r = 0#32 := by
  cases r with
  | caps => exact absurd rfl noCaps
  | status => exact Status.idle_toWord
  | valid => exact Valid.none_toWord
  | _ => rfl

theorem State.results_resetBlock (s : State) : s.resetBlock.codeBytes = zeros 16 ∧
    s.resetBlock.msgBytes = zeros 8 ∧ s.resetBlock.macBytes = zeros 20 :=
  ⟨s.readBytes_resetBlock (by decide), s.readBytes_resetBlock (by decide), s.readBytes_resetBlock (by decide)⟩

/-- The state after reset is what a reset that takes draw 0 leaves. -/
theorem State.reset_eq_resetBlock : State.reset = State.resetBlock { State.reset with draws := 0 } := rfl

/-- Settles O13: what a reset leaves in the registers and the result buffers, of which State.reset is a case. -/
theorem resetGivesTheResetValues : Obligations.ResetGivesTheResetValues := by
  refine ⟨fun s ts turn => ?_, ?_⟩
  · exact ⟨_, step_of_reset turn, fun _ => State.readReg_resetBlock _, rfl, rfl, State.results_resetBlock _⟩
  · rw [State.reset_eq_resetBlock]
    exact ⟨fun _ => State.readReg_resetBlock _, rfl, State.results_resetBlock _⟩

/-- Settles O14: the offset lies in SECRET or KEY, and its byte is unlisted after the reset. -/
theorem resetDrawsSecretAndKeyAnew : Obligations.ResetDrawsSecretAndKeyAnew := by
  intro s ts off turn _ writable
  have ram : isRam s.config off.toNat = true := isRam_of_writable writable
  have drawn : (State.resetBlock { s with schedule := ts }).readByte off.toNat =
      Config.freeRamByte s.draws off.toNat := if_pos ram
  refine ⟨_, step_of_reset turn, Nat.lt_succ_self s.draws, ?_⟩
  rw [← drawn]
  exact hostAccess_r8_buffer rfl rfl (isBuffer_of_ram ram)

/-- Settles O15: no cell is listed, STATUS is idle, and no result is valid. -/
theorem resetStateMeetsTheInvariant : Obligations.ResetStateMeetsTheInvariant where
  config_wf := by decide
  memory_wf := reset_memory_wf
  status_ok := Status.idle_ok
  mac_valid h := absurd h (by decide)
  code_valid h := absurd h (by decide)

end Sys2Proof.Machine
end

section
/-! PROOF. Runs of the machine, and the end of a busy period (70_reset_and_hazards.md R93 to R95). -/

namespace Sys2Proof.Machine

/-! ## Runs -/

theorem run_succ_of_next {M : Host.Core} {s t : M.State} (h : M.step s = .next t) (k : Nat) :
    M.run (k + 1) s = M.run k t := by
  rw [Host.Core.run, h]

theorem run_one_of_fault {M : Host.Core} {s : M.State} {f : M.Fault} (h : M.step s = .fault f) :
    M.run 1 s = .fault f := by
  rw [Host.Core.run, h]

/-! ## The end of a busy period -/

theorem Status.Completed.idle {st : Status} (h : st.Completed) : st.busy = false := by
  obtain rfl | ⟨e, rfl⟩ := h <;> rfl

/-- An access of a busy block is a read, which only the host's side sees, or breaks the host's contract (R93, R94). -/
theorem hostAccess_of_busy {s : State} (busy : s.status.busy = true) (a : Access) :
    (∃ d r, hostAccess a s = .next (s.withHost d s.schedule s.program r)) ∨ ∃ f, hostAccess a s = .fault f := by
  by_cases hazard : s.status.busy = true ∧ a.isWrite = true
  · exact .inr ⟨_, hostAccess_of_hazard busy hazard.2⟩
  · cases form : a.wf with
    | false => exact .inr ⟨_, hostAccess_of_not_wf hazard form⟩
    | true =>
      obtain ⟨t, next⟩ := hostAccess_of_wf hazard form
      obtain ⟨-, -, off, v, free, rfl⟩ | ⟨idle, -⟩ | ⟨idle, -⟩ := hostAccess_next next
      · obtain ⟨d, r, read⟩ := s.hostRead_eq_withHost off v free
        exact .inl ⟨d, r, read ▸ next⟩
      all_goals exact absurd (busy.symm.trans idle) (by decide)

/-- The host's turn in a busy block leaves it busy, with the rest of the schedule, or breaks the host's contract. -/
theorem step_host_of_busy {s : State} {ts : List Turn} (busy : s.status.busy = true) (turn : s.schedule = .host :: ts) :
    (∃ t, step s = .next t ∧ t.status.busy = true ∧ t.schedule = ts) ∨ ∃ f, step s = .fault f := by
  have host : HostMovesNext s ts := .inl turn
  cases prog : s.program with
  | nil =>
    refine .inl ⟨{ s with schedule := ts }, ?_, busy, rfl⟩
    rw [step_of_hostMovesNext host, hostTurn, prog]
  | cons op rest =>
    obtain ⟨d, r, read⟩ | ⟨f, stop⟩ :=
      hostAccess_of_busy (s := { s with schedule := ts, program := rest }) busy (accessOf op)
    · obtain ⟨p, loop⟩ := afterRead_eq op (State.withHost { s with schedule := ts, program := rest } d ts rest r)
      exact .inl ⟨_, step_of_hostOp host prog read, by rw [loop]; exact busy, by rw [loop]; rfl⟩
    · exact .inr ⟨f, by simp only [step_of_hostMovesNext host, hostTurn, prog, hostOp, stop]⟩

/-- Within n steps from s, BUSY is 0 or a step has stopped with a fault of the host's contract. -/
def BusyPeriodEndsWithin (n : Nat) (s : State) : Prop :=
  ∃ k, k ≤ n ∧ ((∃ t, Host.Core.run core k s = .next t ∧ t.status.busy = false) ∨
    ∃ f, Host.Core.run core k s = .fault f)

theorem BusyPeriodEndsWithin.of_idle {s : State} (n : Nat) (idle : s.status.busy = false) : BusyPeriodEndsWithin n s :=
  ⟨0, n.zero_le, .inl ⟨s, rfl, idle⟩⟩

theorem BusyPeriodEndsWithin.of_fault {s : State} {f : Fault} (n : Nat) (h : step s = .fault f) :
    BusyPeriodEndsWithin (n + 1) s :=
  ⟨1, by omega, .inr ⟨f, run_one_of_fault (M := core) h⟩⟩

theorem BusyPeriodEndsWithin.of_next {s t : State} {n : Nat} (h : step s = .next t) (ends : BusyPeriodEndsWithin n t) :
    BusyPeriodEndsWithin (n + 1) s := by
  obtain ⟨k, le, run⟩ := ends
  have runs : Host.Core.run core (k + 1) s = Host.Core.run core k t := run_succ_of_next (M := core) h k
  exact ⟨k + 1, Nat.succ_le_succ le, runs ▸ run⟩

/-- Where the engine moves next, the next step ends the busy period (R81). -/
theorem BusyPeriodEndsWithin.of_engine {s : State} {ts : List Turn} (n : Nat) (busy : s.status.busy = true)
    (turn : EngineMovesNext s ts) : BusyPeriodEndsWithin (n + 1) s := by
  obtain ⟨t, completes, completed⟩ := completePending_completes { s with schedule := ts }
  exact .of_next ((step_of_engineCompletes ⟨busy, turn⟩).trans completes) (.of_idle n completed.idle)

/-- Settles O11, by induction on the schedule: the engine's turn and a reset end the busy period, the host's turn takes
one entry off the schedule, and after its end the engine moves. -/
theorem busyPeriodEnds : Obligations.BusyPeriodEnds := by
  intro s busy
  show BusyPeriodEndsWithin (s.schedule.length + 1) s
  generalize sched : s.schedule = ts
  induction ts generalizing s with
  | nil => exact .of_engine _ busy (.inr ⟨sched, rfl⟩)
  | cons turn ts ih =>
    cases turn with
    | engine => exact .of_engine _ busy (.inl sched)
    | reset => exact .of_next (step_of_reset sched) (.of_idle _ rfl)
    | host =>
      obtain ⟨t, next, stillBusy, rest⟩ | ⟨f, stop⟩ := step_host_of_busy busy sched
      · exact .of_next next (ih t stillBusy rest)
      · exact .of_fault _ stop

end Sys2Proof.Machine
end

section
/-! PROOF. The host that makes allowed accesses and waits after every CMD write (70_reset_and_hazards.md R93, R98;
30_encoding.md R47). -/

namespace Sys2Proof.Machine

/-! ## Programs with their WAITs -/

/-- A program asks for WAIT after its first operation exactly where that writes CMD. -/
theorem waitsAfterCmd_cons (op : HostOp) (rest : List HostOp) : waitsAfterCmd (op :: rest) = true ↔
    (∀ v, op = .access (.w32 0x0004#16 v) → rest.head? = some .wait) ∧ waitsAfterCmd rest = true := by
  cases op with
  | access a =>
    cases a with
    | w32 off v => by_cases cmd : off = 0x0004#16 <;> simp [waitsAfterCmd, cmd]
    | _ => simp [waitsAfterCmd]
  | _ => simp [waitsAfterCmd]

/-- The byte reads of RDCODE ask for no WAIT. -/
theorem waitsAfterCmd_codeReads_append (n : Nat) (rest : List HostOp) :
    waitsAfterCmd (codeReads n ++ rest) = waitsAfterCmd rest := by
  rw [codeReads]
  induction List.range n with
  | nil => rfl
  | cons i is ih => exact ih

theorem HostOp.wf_of_mem_codeReads {n : Nat} {op : HostOp} (h : op ∈ codeReads n) : op.wf = true := by
  obtain ⟨i, -, rfl⟩ := List.mem_map.mp h
  rfl

/-! ## Who changes the program and BUSY -/

theorem runCommand_ok_program {i : Instr} {s t : State} (h : runCommand i s = .ok t) : t.program = s.program := by
  cases i with
  | decode =>
    obtain ⟨-, k, -, rfl⟩ := runDecode_ok h
    rw [State.writeKey_program]
  | hmacCtr =>
    obtain ⟨-, -, rfl⟩ := runHmacCtr_ok h
    rw [State.setValid_program, State.writeMac_program]
  | trunc =>
    obtain ⟨-, d, -, rfl⟩ := runTrunc_ok h
    rw [State.setValid_program, State.writeCode_program]
  | genHotp =>
    obtain ⟨d, -, rfl⟩ := runGenHotp_ok h
    rw [State.writeGenerated_program]
  | genTotp =>
    obtain ⟨d, -, rfl⟩ := runGenTotp_ok h
    rw [State.setCounter_program, State.writeGenerated_program]

/-- A completion leaves the host's program alone (R38). -/
theorem completePending_program {s t : State} (h : completePending s = .next t) : t.program = s.program := by
  obtain ⟨i, -, run⟩ | ⟨r, -, run⟩ := completePending_cases s
  · cases run.symm.trans h
    obtain ⟨u, ok, done⟩ | ⟨e, -, done⟩ := s.complete_cases i (runCommand i s)
    · rw [done, State.succeed_program, runCommand_ok_program ok]
    · rw [done, State.fail_program]
  · cases run.symm.trans h
    rfl

@[simp] theorem State.writeReg_program (s : State) (r : Reg) (v : Word) : (s.writeReg r v).program = s.program := by
  cases r <;> rfl

theorem State.writeReg_status (s : State) {r : Reg} (noCmd : r ≠ .cmd) (v : Word) :
    (s.writeReg r v).status = s.status := by
  cases r with
  | cmd => exact absurd rfl noCmd
  | _ => rfl

theorem HostStored.program {s t : State} (h : HostStored s t) : t.program = s.program := by rw [h.frame]

theorem offset_of_regAt_cmd {off : Offset} (h : regAt off.toNat = some .cmd) : off = 0x0004#16 := by
  apply BitVec.eq_of_toNat_eq
  simpa using regAt_some h

/-- One access leaves the host's program alone, and only a CMD write makes an idle block busy (R19). -/
theorem hostAccess_program_and_busy {a : Access} {s t : State} (idle : s.status.busy = false)
    (h : hostAccess a s = .next t) :
    t.program = s.program ∧ (t.status.busy = true → ∃ v, a = .w32 0x0004#16 v) := by
  have keeps {u : State} (same : u.status = s.status) : u.status.busy = true → ∃ v, a = .w32 0x0004#16 v :=
    fun busy => absurd (idle.symm.trans (same ▸ busy)) (by decide)
  obtain ⟨-, -, off, v, free, rfl⟩ | ⟨-, off, b, -, -, rfl⟩ | ⟨-, off, v, rfl, -, rfl⟩ := hostAccess_next h
  · exact ⟨s.hostRead_program off v free, keeps (s.hostRead_status off v free)⟩
  · exact ⟨s.hostStore_program _ b, keeps (s.hostStore_status _ b)⟩
  · obtain ⟨r, hr, write⟩ | stored := s.hostStoreWord_effect off.toNat v
    · rw [write]
      refine ⟨s.writeReg_program r v, ?_⟩
      by_cases cmd : r = .cmd
      · obtain rfl : off = 0x0004#16 := offset_of_regAt_cmd (cmd ▸ hr)
        exact fun _ => ⟨v, rfl⟩
      · exact keeps (s.writeReg_status cmd v)
    · exact ⟨stored.program, keeps stored.status⟩

/-! ## Every step -/

/-- A change that keeps the program and makes no idle block busy keeps the host's promise. -/
theorem State.HostWaits.congr {s t : State} (h : s.HostWaits) (prog : t.program = s.program)
    (busy : t.status.busy = true → s.status.busy = true) : t.HostWaits where
  allowed := prog ▸ h.allowed
  waits := prog ▸ h.waits
  busy_waits b := prog ▸ h.busy_waits (busy b)

/-- In an idle block the host may make any program of allowed operations with its WAITs. -/
theorem State.HostWaits.of_idle {s : State} (idle : s.status.busy = false) (allowed : ∀ op ∈ s.program, op.wf = true)
    (waits : waitsAfterCmd s.program = true) : s.HostWaits where
  allowed := allowed
  waits := waits
  busy_waits busy := absurd (idle.symm.trans busy) (by decide)

/-- The host's turn at an access of its program. The block is idle then, and one it makes busy is followed by WAIT. -/
theorem State.HostWaits.step_access {s : State} {ts : List Turn} {a : Access} {rest : List HostOp} (h : s.HostWaits)
    (turn : HostMovesNext s ts) (prog : s.program = .access a :: rest) : ∃ t, step s = .next t ∧ t.HostWaits := by
  obtain ⟨allowed, waits, busyWaits⟩ := h
  simp only [prog, List.forall_mem_cons, waitsAfterCmd_cons] at allowed waits busyWaits
  obtain ⟨form, allowedRest⟩ := allowed
  obtain ⟨cmdWaits, waitsRest⟩ := waits
  have idle : s.status.busy = false := by simpa using busyWaits
  obtain ⟨t, next⟩ := hostAccess_of_wf (s := { s with schedule := ts, program := rest }) (by simp [idle]) form
  obtain ⟨left, busy⟩ := hostAccess_program_and_busy (s := { s with schedule := ts, program := rest }) idle next
  refine ⟨t, step_of_hostOp turn prog next, left ▸ allowedRest, left ▸ waitsRest, fun b => ?_⟩
  obtain ⟨v, rfl⟩ := busy b
  exact left ▸ cmdWaits v rfl

/-- The host's turn at WAIT: the program stays while the block is busy and goes on when it is idle. -/
theorem State.HostWaits.step_wait {s : State} {ts : List Turn} {rest : List HostOp} (h : s.HostWaits)
    (turn : HostMovesNext s ts) (prog : s.program = .wait :: rest) : ∃ t, step s = .next t ∧ t.HostWaits := by
  refine ⟨_, waitPollsStatusUntilIdle s ts rest turn prog, ?_⟩
  cases busy : s.status.busy with
  | true => exact h.congr prog.symm id
  | false =>
    obtain ⟨allowed, waits, -⟩ := h
    simp only [prog, List.forall_mem_cons, waitsAfterCmd_cons] at allowed waits
    exact .of_idle busy allowed.2 waits.2

/-- The host's turn at RDCODE: the block is idle then, and the byte reads that follow are allowed. -/
theorem State.HostWaits.step_rdCode {s : State} {ts : List Turn} {rest : List HostOp} (h : s.HostWaits)
    (turn : HostMovesNext s ts) (prog : s.program = .rdCode :: rest) : ∃ t, step s = .next t ∧ t.HostWaits := by
  obtain ⟨allowed, waits, busyWaits⟩ := h
  simp only [prog, List.forall_mem_cons, waitsAfterCmd_cons] at allowed waits busyWaits
  have idle : s.status.busy = false := by simpa using busyWaits
  refine ⟨_, (rdCodeReadsTheLengthThenTheDigits s ts rest turn prog).1 idle, .of_idle idle ?_ ?_⟩
  · exact fun op mem => (List.mem_append.mp mem).elim HostOp.wf_of_mem_codeReads (allowed.2 op)
  · exact (waitsAfterCmd_codeReads_append s.codeLen.toNat rest).trans waits.2

/-- The host's turn, one lemma for each kind of operation. -/
theorem State.HostWaits.step_host {s : State} {ts : List Turn} (h : s.HostWaits) (turn : HostMovesNext s ts) :
    ∃ t, step s = .next t ∧ t.HostWaits := by
  cases prog : s.program with
  | nil =>
    refine ⟨{ s with schedule := ts }, ?_, h.congr rfl id⟩
    rw [step_of_hostMovesNext turn, hostTurn, prog]
  | cons op rest =>
    cases op with
    | access a => exact h.step_access turn prog
    | wait => exact h.step_wait turn prog
    | rdCode => exact h.step_rdCode turn prog

/-- No step stops a host that keeps its promise, and the promise is kept: by a completion and a reset because they leave
the block idle and the program alone. -/
theorem State.HostWaits.step_next {s : State} (h : s.HostWaits) : ∃ t, step s = .next t ∧ t.HostWaits := by
  obtain ⟨-, ts, -, -, e⟩ | ⟨-, ts, -, e⟩ | ⟨ts, tail, turn, -⟩ | ⟨ts, -, e⟩ := step_cases s
  · obtain ⟨t, completes, completed⟩ := completePending_completes { s with schedule := ts }
    have prog : t.program = s.program := completePending_program (s := { s with schedule := ts }) completes
    exact ⟨t, e.trans completes, .of_idle completed.idle (prog ▸ h.allowed) (prog ▸ h.waits)⟩
  · exact ⟨_, e, h.congr rfl id⟩
  · exact h.step_host (turn.symm.imp id fun ⟨nil, idle⟩ => ⟨nil, by rw [tail, nil]; rfl, idle⟩)
  · exact ⟨_, e, .of_idle rfl h.allowed h.waits⟩

theorem State.HostWaits.safeRun {s : State} (h : s.HostWaits) (k : Nat) : SafeRun k s := by
  induction k generalizing s with
  | zero => exact ⟨s, rfl⟩
  | succ k ih =>
    obtain ⟨t, next, waits⟩ := h.step_next
    obtain ⟨u, run⟩ := ih waits
    exact ⟨u, (run_succ_of_next (M := core) next k).trans run⟩

/-- Settles O29: the step lemma, and the run it gives by induction on its length. -/
theorem hostThatWaitsNeverStopsTheMachine : Obligations.HostThatWaitsNeverStopsTheMachine :=
  ⟨fun _ => State.HostWaits.step_next, fun _ k idle allowed waits =>
    (State.HostWaits.of_idle idle allowed waits).safeRun k⟩

end Sys2Proof.Machine
end

section
/-! PROOF. Which rejection an illegal command word meets (30_encoding.md R42, R44). -/

namespace Sys2Proof.Machine

/-- A word is rejected for its reserved bits exactly when RSV is not 0, whatever its OP. -/
theorem decode_eq_reservedBits_iff (w : Word) : decode w = .error .reservedBits ↔ rsvField w ≠ 0#24 := by
  unfold decode
  split
  · next rsv => cases opcodeOf (opField w) <;> simp [rsv]
  · next rsv => simp [rsv]

/-- A word is rejected for its opcode exactly when RSV is 0 and OP is not in the map. -/
theorem decode_eq_unassignedOpcode_iff (w : Word) :
    decode w = .error .unassignedOpcode ↔ rsvField w = 0#24 ∧ opcodeOf (opField w) = none := by
  unfold decode
  split
  · next rsv => cases opcodeOf (opField w) <;> simp [rsv]
  · next rsv => simp [rsv]

/-- Settles O1: the first five words are the encodings of the commands, and the others are rejected by their fields. -/
theorem tableWordsDecode : Obligations.TableWordsDecode := by
  have unassigned {w : Word} := (decode_eq_unassignedOpcode_iff w).mpr
  have reserved {w : Word} := (decode_eq_reservedBits_iff w).mpr
  exact ⟨decode_encode .decode, decode_encode .hmacCtr, decode_encode .trunc, decode_encode .genHotp,
    decode_encode .genTotp, unassigned (by decide), unassigned (by decide), unassigned (by decide),
    reserved (by decide), reserved (by decide)⟩

end Sys2Proof.Machine
end
